-- ==== Sys2Proof/Word.lean ====
section
/-! DEFINITION. The widths of the hardware: 32-bit registers (R18), 16-bit coefficients (R9), 8-bit buffer bytes (R43). -/

namespace Sys2Proof

/-- A register or a host access: 32 bits (R18, R54). -/
abbrev Word := BitVec 32

/-- A bank coefficient or a 16-bit register field: 16 bits (R9, R28). -/
abbrev Half := BitVec 16

/-- A byte of the byte buffer (R43). -/
abbrev Byte := BitVec 8

end Sys2Proof
end

