-- ==== Sys2Proof/Config.lean ====
section
/-! DEFINITION. What an instance of the hardware fixes (R8, R20) and the free values of the spec (U1, U3, U4). -/

namespace Sys2Proof

/-- The build-time parameters of an instance (R8): coefficients per bank, banks, bytes in the buffer. -/
structure Build where
  nmax : Nat
  nbank : Nat
  bufsz : Nat
  deriving DecidableEq, Repr

/-- The legal ranges of R8. -/
abbrev Build.Legal (b : Build) : Prop :=
  2 ≤ b.nmax ∧ b.nmax ≤ 2048 ∧ 3 ≤ b.nbank ∧ b.nbank ≤ 8 ∧ 4 ≤ b.bufsz ∧ b.bufsz ≤ 65536 ∧ b.bufsz % 4 = 0

namespace Config

/-- The values R8 takes: NMAX = 1280, NBANK = 8, BUFSZ = 4096. -/
def build : Build := ⟨1280, 8, 4096⟩

/-- The constant ID reads: "NT", revision 1.0 (R2, R20). -/
def idWord : Word := 0x4E540100#32

/-- FREE VALUE (U1, log 5): what the cell at an offset holds after a hardware reset until something
writes it. The first argument counts hardware resets, the second is the cell's offset. -/
opaque powerUpByte : Nat → Nat → Byte

/-- FREE VALUE (U4, log 6): what a destination cell holds after a soft reset that aborted its command.
The first argument is the draw, the second the cell's offset. -/
opaque abortedByte : Nat → Nat → Byte

/-- FREE VALUE (U3, log 7): what a host read of a bank or buffer word returns while BUSY. The argument
is the draw, so two reads need not agree (R58). -/
opaque busyReadWord : Nat → Word

end Config

end Sys2Proof
end

