-- ==== Sys2Proof/Machine/State.lean ====
section
/-! DEFINITION. The state of the engine (R17), plain data: its registers (R19 to R38), its banks and byte buffer as memory cells (R40, R43), the command in flight (R45), and the model's own fields for the events to come and the free values taken (log 1, 5, 6, 7, 14). -/

namespace Sys2Proof.Machine

/-- The registers a command takes its operands from (R28 to R36, R65). Fields a register's table does
not list are RAZ/WI (R18), so a 16-bit register is stored as its 16 bits. -/
structure Params where
  pn : Half
  pm : Half
  pw : Half
  pi : Half
  tau0 : Word
  tau1 : Word
  scalar : Word
  boff : Half
  wlen : Half
  finLo : Word
  finHi : Word
  deriving DecidableEq, Repr

/-- Every parameter register at its reset value (R47). -/
def Params.reset : Params where
  pn := 0
  pm := 0
  pw := 0
  pi := 0
  tau0 := 0
  tau1 := 0
  scalar := 0
  boff := 0
  wlen := 0
  finLo := 0
  finHi := 0

/-- What the engine holds while a command is in flight (R45): the command word and the copy of the
registers, both taken at acceptance (R75). -/
structure InFlight where
  word : Word
  params : Params
  deriving DecidableEq, Repr

/-- The error codes (R113). The values 0x0A to 0xFF are never reported, so they have no constructor. -/
inductive ErrCode where
  | none
  | illegalOp
  | reserved
  | bank
  | paramN
  | paramM
  | paramI
  | paramW
  | window
  | busy
  deriving DecidableEq, Repr

/-- The events of the machine (R119): each is one atomic step, but for `hostWait`, which is a step for each of its
reads and one for the completion it waits for. Offsets are byte offsets from BASE (R48,
log 9). -/
inductive Event where
  /-- the host reads 32 bits -/
  | hostRead (off : Nat)
  /-- the host writes 32 bits -/
  | hostWrite (off : Nat) (v : Word)
  /-- the host makes an access of another width (R54, U2) -/
  | hostOther (bits : Nat) (off : Nat)
  /-- the host waits (R73): it reads STATUS until BUSY = 0. `polls` is how many of its reads find BUSY = 1 before the
  sequencer completes the command in flight (log 20) -/
  | hostWait (polls : Nat)
  /-- the sequencer completes the command in flight (R76) -/
  | completion
  /-- the platform's reset input is asserted and released (R129) -/
  | hardReset
  deriving DecidableEq, Repr

/-- Why a step stops with a fault. No command's meaning raises one. -/
inductive Fault where
  /-- Raised by a host access at an offset of 0x4_0000 or more: no such location is in the aperture
  (R48). Safe: the model stops where the access is not this engine's. -/
  | outsideAperture
  /-- Raised by a completion when the word in flight is no command. Acceptance admits only decodable
  words (R74, R75), so no run reaches it. Safe. -/
  | inFlightUndecodable
  deriving DecidableEq, Repr

/-- Why a step is refused. No command's meaning raises one. -/
inductive Refusal where
  /-- Raised by an arm of `exec` whose command has no meaning yet. Safe. No arm uses it. -/
  | notModelled (mnemonic : String)
  /-- Raised by a host access that is not 32 bits wide: outside the spec, "a model must refuse it" (R54,
  U2). Safe. -/
  | accessWidth
  /-- Raised by a 32-bit host access at an offset that is not a multiple of 4 (R54, U2). Safe. -/
  | accessMisaligned
  deriving DecidableEq, Repr

/-- Memory: the coefficients and buffer bytes that something has written since the last hardware reset,
as cells (offset, byte) at the offsets of their windows (R50, R51, log 16). A cell not listed is
unwritten (R42). -/
abbrev Memory := List Host.Cell

/-- The one form of a memory: offsets strictly rising. An unlisted cell has no value, so no entry can
equal what it reads as. -/
abbrev Memory.wf (m : Memory) : Prop := List.Pairwise (fun x y => x.1 < y.1) m

/-- The state (R17). -/
structure State where
  /-- NMAX, NBANK, BUFSZ, the constants CFG0 and CFG1 read (R21, R22); no step changes them. -/
  build : Build
  /-- CTRL.IE (R23). -/
  ie : Bool
  /-- STATUS.DONE (R24). -/
  done : Bool
  /-- STATUS.ERR (R24). -/
  err : Bool
  /-- STATUS.OVF (R24). -/
  ovf : Bool
  /-- ERRCODE.CODE (R26). -/
  errcode : ErrCode
  /-- CMD (R27). -/
  cmd : Word
  /-- PN to FIN_HI (R28 to R36). -/
  params : Params
  /-- FOUT (R37). -/
  fout : Word
  /-- WMASK (R38). -/
  wmask : Word
  /-- The banks (R40) and the byte buffer (R43). -/
  mem : Memory
  /-- The command in flight, if any (R45, R77). STATUS.BUSY is "some". -/
  inflight : Option InFlight
  /-- The model's own: the events to come, in order (log 1). -/
  agenda : List Event
  /-- The model's own: what host reads have returned, newest first (log 14). -/
  hostReads : List Word
  /-- The model's own: how many hardware resets there have been (log 5). -/
  epoch : Nat
  /-- The model's own: how many free values have been drawn (log 6, log 7). -/
  draws : Nat
  deriving DecidableEq, Repr

/-- STATUS.BUSY (R24): a command is in flight. -/
def State.busy (s : State) : Bool := s.inflight.isSome

/-- The IRQ output, a function of state (R46, R120). -/
def State.irq (s : State) : Bool := s.ie && s.done

/-- The engine right after a hardware reset (R47, R129), with no event to come. -/
def State.reset : State where
  build := Config.build
  ie := false
  done := false
  err := false
  ovf := false
  errcode := .none
  cmd := 0
  params := Params.reset
  fout := 0
  wmask := 0
  mem := []
  inflight := none
  agenda := []
  hostReads := []
  epoch := 0
  draws := 0

end Sys2Proof.Machine
end

