-- ==== Sys2Proof/Machine/Operands.lean ====
section
/-! DEFINITION. The operand forms (R65): where a coefficient or a buffer byte lies, how a register field is read as a number, the byte counts of the codec windows (R104), and the centered residue freeze_M (R86). -/

namespace Sys2Proof.Machine

/-- The offset of bank[b][i]'s window word (R50): the coefficient's low byte; its high byte is the next
cell (log 16). -/
def coeffAddr (b i : Nat) : Nat := 0x10000 + 0x2000 * b + 4 * i

/-- The offset of buf[k] (R51). -/
def bufAddr (k : Nat) : Nat := 0x20000 + k

/-- N = zext_16 of PN (R65). -/
def Params.N (p : Params) : Nat := p.pn.toNat

/-- M = zext_16 of PM (R65). -/
def Params.M (p : Params) : Nat := p.pm.toNat

/-- W = zext_16 of PW (R65). -/
def Params.W (p : Params) : Nat := p.pw.toNat

/-- I = zext_16 of PI (R65). -/
def Params.I (p : Params) : Nat := p.pi.toNat

/-- TAU0 = sext_32 (R65). -/
def Params.tau0Int (p : Params) : Int := p.tau0.toInt

/-- TAU1 = sext_32 (R65). -/
def Params.tau1Int (p : Params) : Int := p.tau1.toInt

/-- n = sext_32 of SCALAR (R65). -/
def Params.n (p : Params) : Int := p.scalar.toInt

/-- off = zext_16 of BOFF (R65, R104). -/
def Params.off (p : Params) : Nat := p.boff.toNat

/-- L: N when WLEN = 0, else WLEN (R101). -/
def Params.L (p : Params) : Nat := if p.wlen.toNat = 0 then p.N else p.wlen.toNat

/-- x = sext_64 of {FIN_HI, FIN_LO} (R65). -/
def Params.x (p : Params) : Int := (p.finHi ++ p.finLo).toInt

/-- The byte count of a codec window that packs `per` elements in a byte: ceil(I / per) (R104). -/
def windowBytes (per i : Nat) : Nat := (i + (per - 1)) / per

/-- freeze_M(x), the centered residue (R86). `x % M` on integers is the Euclidean remainder. -/
def freeze (M : Nat) (x : Int) : Int :=
  let r := x % (M : Int)
  if 2 * r > (M : Int) then r - (M : Int) else r

end Sys2Proof.Machine
end

