-- ==== Sys2Proof/Machine/Flags.lean ====
section
/-! DEFINITION. Narrowing a lane's exact value to a coefficient and the OVF flag (R92), and the words that STATUS, CTRL and ERRCODE read as (R23, R24, R26, R113). -/

namespace Sys2Proof.Machine

/-- wrap16 (R12): the integer modulo 2^16, as a coefficient. -/
def wrap16 (x : Int) : Half := BitVec.ofInt 16 x

/-- The exact value leaves -32768 .. 32767 (R92). -/
def overflows (e : Int) : Bool := e < -32768 || 32767 < e

/-- narrow (R92): freeze when R = 1, wrap when R = 0. A centered residue fits 16 bits (R87). -/
def narrow (r : Bool) (M : Nat) (e : Int) : Half := if r then wrap16 (freeze M e) else wrap16 e

/-- Some of the lanes 0 .. n-1 overflows (R92). -/
def anyOverflow (e : Nat → Int) : Nat → Bool
  | 0 => false
  | n + 1 => anyOverflow e n || overflows (e n)

/-- OVF at completion (R92, R24): set by an overflowing lane of an unreduced command, otherwise kept. -/
def ovfAfter (r : Bool) (e : Nat → Int) (n : Nat) (old : Bool) : Bool := old || (!r && anyOverflow e n)

/-- The number of an error code (R113). -/
def ErrCode.number : ErrCode → Byte
  | .none => 0x00#8
  | .illegalOp => 0x01#8
  | .reserved => 0x02#8
  | .bank => 0x03#8
  | .paramN => 0x04#8
  | .paramM => 0x05#8
  | .paramI => 0x06#8
  | .paramW => 0x07#8
  | .window => 0x08#8
  | .busy => 0x09#8

/-- What STATUS reads (R24). -/
def State.statusWord (s : State) : Word :=
  0#28 ++ BitVec.ofBool s.ovf ++ BitVec.ofBool s.err ++ BitVec.ofBool s.done ++ BitVec.ofBool s.busy

/-- What CTRL reads (R23). -/
def State.ctrlWord (s : State) : Word := 0#29 ++ BitVec.ofBool s.ie ++ 0#2

end Sys2Proof.Machine
end

