-- ==== Sys2Proof/Machine/Ops.lean ====
section
/-! DEFINITION. The named operations on memory and registers: cells, coefficients, buffer bytes, the rejection of a command (the engine's only trap, R116) and its acknowledgement (R117), acceptance (R75) and completion (R76), and the two resets' effect on registers (R47). -/

namespace Sys2Proof.Machine

/-! ### Cells -/

/-- The byte listed at an offset, or none for an unwritten cell (R42). -/
def Memory.get : Memory → Nat → Option Byte
  | [], _ => none
  | (b, v) :: m, a => if a = b then some v else Memory.get m a

/-- Write a byte, keeping the offsets strictly rising. -/
def Memory.set : Memory → Nat → Byte → Memory
  | [], a, v => [(a, v)]
  | (b, w) :: m, a, v =>
    if a < b then (a, v) :: (b, w) :: m
    else if a = b then (a, v) :: m
    else (b, w) :: Memory.set m a v

/-- Read one cell. An unwritten cell gives the free value of its offset and of the last hardware reset
(R42, U1, log 5). -/
def readByte (s : State) (a : Nat) : Byte := (s.mem.get a).getD (Config.powerUpByte s.epoch a)

/-- Write one cell. -/
def writeByte (a : Nat) (v : Byte) (s : State) : State := { s with mem := s.mem.set a v }

/-! ### Coefficients and buffer bytes -/

/-- bank[b][i] (R12, R40). -/
def readCoeff (s : State) (b i : Nat) : Half := readByte s (coeffAddr b i + 1) ++ readByte s (coeffAddr b i)

/-- bank[b][i] as a signed integer (R40). -/
def coeff (s : State) (b i : Nat) : Int := (readCoeff s b i).toInt

/-- bank[b][i] <- v (R12). -/
def writeCoeff (b i : Nat) (v : Half) (s : State) : State :=
  writeByte (coeffAddr b i + 1) (v.extractLsb' 8 8) (writeByte (coeffAddr b i) (v.extractLsb' 0 8) s)

/-- bank[b][i] <- v i for i in 0 .. n-1 (R80). -/
def writeCoeffs (b : Nat) (v : Nat → Half) : Nat → State → State
  | 0, s => s
  | n + 1, s => writeCoeff b n (v n) (writeCoeffs b v n s)

/-- MemRead(o, 1) (R12): buf[o]. -/
def readBuf (s : State) (o : Nat) : Byte := readByte s (bufAddr o)

/-- MemWrite(o, 1, v) (R12). -/
def writeBuf (o : Nat) (v : Byte) (s : State) : State := writeByte (bufAddr o) v s

/-- buf[off + j] <- v j for j in 0 .. n-1 (R104). -/
def writeBufs (off : Nat) (v : Nat → Byte) : Nat → State → State
  | 0, s => s
  | n + 1, s => writeBuf (off + n) (v n) (writeBufs off v n s)

/-- Give every cell of a list the free value of one draw (R130, U4). -/
def scramble (draw : Nat) : List Nat → State → State
  | [], s => s
  | a :: rest, s => scramble draw rest (writeByte a (Config.abortedByte draw a) s)

/-! ### The command cycle -/

/-- Rejection, the engine's only trap (R116): ERR <- 1, CODE <- the code, DONE <- 1, nothing else. -/
def reject (code : ErrCode) (s : State) : State := { s with err := true, errcode := code, done := true }

/-- Acknowledge of an error (R117), the only return from it: ERR and CODE are cleared together. -/
def acknowledge (s : State) : State := { s with err := false, errcode := .none }

/-- A host write the engine ignores because a command is in flight (R57): ERR <- 1, CODE <- 0x09. -/
def busyError (s : State) : State := { s with err := true, errcode := .busy }

/-- Acceptance (R75): BUSY <- 1, with the in-flight copy of the command word and the registers. -/
def accept (s : State) : State := { s with inflight := some ⟨s.cmd, s.params⟩ }

/-- The end of a completion (R76): BUSY <- 0, DONE <- 1. -/
def finish (s : State) : State := { s with inflight := none, done := true }

/-- Every register at its reset value, no command in flight (R47). The banks and the buffer stay. -/
def resetRegisters (s : State) : State :=
  { s with
    ie := false, done := false, err := false, ovf := false, errcode := .none, cmd := 0, params := Params.reset,
    fout := 0, wmask := 0, inflight := none }

/-- Hardware reset (R129): the registers at their reset values, every coefficient and byte unspecified. -/
def hardReset (s : State) : State := { resetRegisters s with mem := [], epoch := s.epoch + 1 }

end Sys2Proof.Machine
end

