-- ==== Sys2Proof/Syntax.lean ====
section
/-! DEFINITION. The command set (R3, R66): one constructor for each row of the opcode table, with the fields that row uses. -/

namespace Sys2Proof

/-- The weight policy of WCHECK, field P (R63): 0 counts nonzero coefficients, 1 counts coefficients equal to +1. -/
inductive WeightPolicy where
  | nonzero
  | plusOne
  deriving DecidableEq, Repr

/-- A command (R66). `d`, `a`, `b` are the bank indexes of fields D, A, B; `r` is the reduce flag R.
The fields a command ignores (R67) are no part of it. -/
inductive Instr where
  | nop
  | sfreeze
  | freeze (d a : Nat)
  | add (d a b : Nat) (r : Bool)
  | sub (d a b : Nat) (r : Bool)
  | smul (d a : Nat) (r : Bool)
  | mul (d a b : Nat)
  | wcheck (d a : Nat) (p : WeightPolicy)
  | top (d a : Nat)
  | topenc (a : Nat)
  | topdec (d : Nat)
  | inenc (a : Nat)
  | indec (d : Nat)
  deriving DecidableEq, Repr

end Sys2Proof
end

