-- ==== Sys2Proof/Machine/Checks.lean ====
section
/-! DEFINITION. The checks at START: what each looks at (R113), which ones each command makes (R114), and the first that fails (R115); and the cycle every command shares (R74 to R76, R83). -/

namespace Sys2Proof.Machine

/-- One check of R114, after the opcode (0x01) and the reserved bits (0x02), which the decoder checks. -/
inductive Check where
  /-- a bank index the command uses is below NBANK (0x03) -/
  | bank (x : Nat)
  /-- 1 ≤ N ≤ NMAX (0x04) -/
  | paramN
  /-- M ≠ 0 (0x05) -/
  | paramM
  /-- I ≤ N (0x06) -/
  | paramI
  /-- W ≤ N and WLEN ≤ N (0x07) -/
  | paramW
  /-- off + nb ≤ BUFSZ, with `per` elements in a byte (0x08) -/
  | window (per : Nat)
  deriving DecidableEq, Repr

/-- The check holds (R113). -/
def Check.passes (bd : Build) (p : Params) : Check → Bool
  | .bank x => x < bd.nbank
  | .paramN => 1 ≤ p.N && p.N ≤ bd.nmax
  | .paramM => p.M != 0
  | .paramI => p.I ≤ p.N
  | .paramW => p.W ≤ p.N && p.wlen.toNat ≤ p.N
  | .window per => p.off + windowBytes per p.I ≤ bd.bufsz

/-- The code a failing check reports (R113). -/
def Check.code : Check → ErrCode
  | .bank _ => .bank
  | .paramN => .paramN
  | .paramM => .paramM
  | .paramI => .paramI
  | .paramW => .paramW
  | .window _ => .window

/-- The table of R114, each row in the order of R115 (D, then A, then B). -/
def checks : Instr → List Check
  | .nop => []
  | .sfreeze => [.paramM]
  | .freeze d a => [.bank d, .bank a, .paramN, .paramM]
  | .add d a b r => [.bank d, .bank a, .bank b, .paramN] ++ if r then [.paramM] else []
  | .sub d a b r => [.bank d, .bank a, .bank b, .paramN] ++ if r then [.paramM] else []
  | .smul d a r => [.bank d, .bank a, .paramN] ++ if r then [.paramM] else []
  | .mul d a b => [.bank d, .bank a, .bank b, .paramN, .paramM]
  | .wcheck d a _ => [.bank d, .bank a, .paramN, .paramW]
  | .top d a => [.bank d, .bank a, .paramN, .paramI]
  | .topenc a => [.bank a, .paramN, .paramI, .window 2]
  | .topdec d => [.bank d, .paramN, .paramI, .window 2]
  | .inenc a => [.bank a, .paramN, .paramI, .window 8]
  | .indec d => [.bank d, .paramN, .paramI, .window 8]

/-- The code of the first check that fails, or none when all hold (R115). -/
def firstError (bd : Build) (p : Params) : List Check → Option ErrCode
  | [] => none
  | c :: rest => if c.passes bd p then firstError bd p rest else some c.code

/-- The cycle of a command (R74 to R76, R78, log 3). With no command in flight it is being started: its
checks run against the current registers, and it is rejected or accepted. With a command in flight it is
being completed: `effect` computes from the in-flight copy, then BUSY <- 0 and DONE <- 1. -/
def commandCycle (i : Instr) (effect : Params → State → State) (s : State) : Host.Outcome State Fault Refusal :=
  match s.inflight with
  | some f => .next (finish (effect f.params s))
  | none =>
    match firstError s.build s.params (checks i) with
    | some code => .next (reject code s)
    | none => .next (accept s)

end Sys2Proof.Machine
end

