-- ==== Sys2Proof/Machine/Codec.lean ====
section
/-! DEFINITION. Codec: TOP (R105), TOPENC (R107), TOPDEC (R108), INENC (R110), INDEC (R111). -/

namespace Sys2Proof.Machine

/-- The accumulator of TOP (R105). -/
def topAcc (tau0 tau1 c : Int) : Int := tau1 * (c + tau0) + 16384

/-- top(c) (R105): the 64-bit accumulator is exact, the shift by 15 floors, the low 8 bits are kept and
sign-extended. Division by a positive number floors on integers. -/
def topValue (tau0 tau1 c : Int) : Half := (BitVec.ofInt 8 (topAcc tau0 tau1 c / 32768)).signExtend 16

/-- TOP (R105): I elements. -/
def execTop (d a : Nat) (s : State) : Host.Outcome State Fault Refusal :=
  commandCycle (.top d a)
    (fun p t => writeCoeffs d (fun i => topValue p.tau0Int p.tau1Int (coeff t a i)) p.I t) s

/-- lo8 (R12): the low 8 bits of a coefficient. -/
def lo8 (v : Half) : Byte := v.extractLsb' 0 8

/-- Byte j of TOPENC (R107): t0 | (t1 << 4), 8 bits; the missing high nibble of an odd I is 0. -/
def topencByte (A : Nat → Half) (i j : Nat) : Byte :=
  let t0 := lo8 (A (2 * j))
  let t1 := if 2 * j + 1 < i then lo8 (A (2 * j + 1)) else 0#8
  t0 ||| (t1 <<< 4)

/-- TOPENC (R107). -/
def execTopenc (a : Nat) (s : State) : Host.Outcome State Fault Refusal :=
  commandCycle (.topenc a)
    (fun p t => writeBufs p.off (topencByte (readCoeff t a) p.I) (windowBytes 2 p.I) t) s

/-- Element i of TOPDEC (R108): the low nibble of its byte for an even i, the high nibble for an odd one. -/
def topdecValue (buf : Nat → Byte) (i : Nat) : Half :=
  if i % 2 = 0 then ((buf (i / 2)).extractLsb' 0 4).setWidth 16 else ((buf (i / 2)).extractLsb' 4 4).setWidth 16

/-- TOPDEC (R108). -/
def execTopdec (d : Nat) (s : State) : Host.Outcome State Fault Refusal :=
  commandCycle (.topdec d)
    (fun p t => writeCoeffs d (topdecValue (fun j => readBuf t (p.off + j))) p.I t) s

/-- The bits 0 .. k-1 of byte j of INENC (R110): bit k is bit 0 of coefficient 8j + k, 0 from I on. -/
def inencBits (A : Nat → Half) (i j : Nat) : Nat → Byte
  | 0 => 0#8
  | k + 1 =>
    inencBits A i j k |||
      (if 8 * j + k < i then (BitVec.ofBool ((A (8 * j + k)).getLsbD 0)).setWidth 8 <<< k else 0#8)

/-- Byte j of INENC (R110). -/
def inencByte (A : Nat → Half) (i j : Nat) : Byte := inencBits A i j 8

/-- INENC (R110). -/
def execInenc (a : Nat) (s : State) : Host.Outcome State Fault Refusal :=
  commandCycle (.inenc a)
    (fun p t => writeBufs p.off (inencByte (readCoeff t a) p.I) (windowBytes 8 p.I) t) s

/-- Element i of INDEC (R111): bit (i & 7) of byte i >> 3. -/
def indecValue (buf : Nat → Byte) (i : Nat) : Half := (BitVec.ofBool ((buf (i / 8)).getLsbD (i % 8))).setWidth 16

/-- INDEC (R111). -/
def execIndec (d : Nat) (s : State) : Host.Outcome State Fault Refusal :=
  commandCycle (.indec d)
    (fun p t => writeCoeffs d (indecValue (fun j => readBuf t (p.off + j))) p.I t) s

end Sys2Proof.Machine
end

