-- ==== Sys2Proof/Machine/Control.lean ====
section
/-! DEFINITION. NOP (R84). -/

namespace Sys2Proof.Machine

/-- NOP (R84): nothing but DONE. -/
def execNop (s : State) : Host.Outcome State Fault Refusal := commandCycle .nop (fun _ t => t) s

end Sys2Proof.Machine
end

