-- ==== Sys2Proof/Machine/Ring.lean ====
section
/-! DEFINITION. RingEngine: ADD (R94), SUB (R95), SMUL (R96), MUL (R97). -/

namespace Sys2Proof.Machine

/-- The shared lane-wise form (R91, R92): lane i of bank d is `e i` narrowed, and OVF is set by an
overflowing unreduced lane. The lanes `e` read the state before any lane is written (R79). -/
def writeLanes (d : Nat) (r : Bool) (e : Nat → Int) (p : Params) (s : State) : State :=
  { writeCoeffs d (fun i => narrow r p.M (e i)) p.N s with ovf := ovfAfter r e p.N s.ovf }

/-- The exact lane value of ADD (R94): A[i] + B[i]. -/
def addLane (s : State) (a b i : Nat) : Int := coeff s a i + coeff s b i

/-- The exact lane value of SUB (R95): A[i] - B[i]. -/
def subLane (s : State) (a b i : Nat) : Int := coeff s a i - coeff s b i

/-- The exact lane value of SMUL (R96): n * A[i]. -/
def smulLane (p : Params) (s : State) (a i : Nat) : Int := p.n * coeff s a i

/-- ADD (R94). -/
def execAdd (d a b : Nat) (r : Bool) (s : State) : Host.Outcome State Fault Refusal :=
  commandCycle (.add d a b r) (fun p t => writeLanes d r (addLane t a b) p t) s

/-- SUB (R95). -/
def execSub (d a b : Nat) (r : Bool) (s : State) : Host.Outcome State Fault Refusal :=
  commandCycle (.sub d a b r) (fun p t => writeLanes d r (subLane t a b) p t) s

/-- SMUL (R96). -/
def execSmul (d a : Nat) (r : Bool) (s : State) : Host.Outcome State Fault Refusal :=
  commandCycle (.smul d a r) (fun p t => writeLanes d r (smulLane p t a) p t) s

/-- c[j] <- c[j] + v, in the accumulators (R97). -/
def accumulate (j : Nat) (v : Int) (c : List Int) : List Int := c.set j (c.getD j 0 + v)

/-- The inner loop of the raw convolution (R97): for j in 0 .. n-1, c[i+j] <- c[i+j] + ai*B[j]. -/
def convolveRow (B : Nat → Int) (ai : Int) (i : Nat) : Nat → List Int → List Int
  | 0, c => c
  | n + 1, c => accumulate (i + n) (ai * B n) (convolveRow B ai i n c)

/-- The outer loop of the raw convolution (R97): for i in 0 .. m-1, row i of length n. -/
def convolveRows (A B : Nat → Int) (n : Nat) : Nat → List Int → List Int
  | 0, c => c
  | m + 1, c => convolveRow B (A m) m n (convolveRows A B n m c)

/-- The 2N-1 raw convolution coefficients, exact integers (R97, R93, log 11). -/
def rawConvolution (A B : Nat → Int) (n : Nat) : List Int := convolveRows A B n n (List.replicate (2 * n - 1) 0)

/-- A fold target before its freeze (R97, R93): c[j] + v. -/
def foldSum (j : Nat) (v : Int) (c : List Int) : Int := c.getD j 0 + v

/-- One fold target (R97): c[j] <- freeze_M(c[j] + v). -/
def foldInto (M j : Nat) (v : Int) (c : List Int) : List Int := c.set j (freeze M (foldSum j v c))

/-- The fold of position k = N+j (R97): c[k] goes into c[k-N] and then into c[k-N+1], each frozen. -/
def foldPosition (M n j : Nat) (c : List Int) : List Int :=
  let v := c.getD (n + j) 0
  foldInto M (j + 1) v (foldInto M j v c)

/-- The fold of the m positions N+lo .. N+lo+m-1, from the highest down (R97). -/
def foldDown (M n lo : Nat) : Nat → List Int → List Int
  | 0, c => c
  | m + 1, c => foldDown M n lo m (foldPosition M n (lo + m) c)

/-- The result coefficient i of MUL (R97): freeze_M(c[i]) after the fold of positions 2N-2 down to N. -/
def mulResult (M n : Nat) (A B : Nat → Int) : List Int :=
  (foldDown M n 0 (n - 1) (rawConvolution A B n)).map (freeze M)

/-- MUL (R97). -/
def execMul (d a b : Nat) (s : State) : Host.Outcome State Fault Refusal :=
  commandCycle (.mul d a b)
    (fun p t =>
      let c := mulResult p.M p.N (coeff t a) (coeff t b)
      writeCoeffs d (fun i => wrap16 (c.getD i 0)) p.N t)
    s

end Sys2Proof.Machine
end

