-- ==== Sys2Proof/Machine/Scalar.lean ====
section
/-! DEFINITION. ScalarField: SFREEZE (R89) and FREEZE (R90). -/

namespace Sys2Proof.Machine

/-- The value SFREEZE leaves in FOUT (R89): sext_32 of the 16-bit residue. -/
def sfreezeResult (p : Params) : Word := (wrap16 (freeze p.M p.x)).signExtend 32

/-- SFREEZE (R89). -/
def execSfreeze (s : State) : Host.Outcome State Fault Refusal :=
  commandCycle .sfreeze (fun p t => { t with fout := sfreezeResult p }) s

/-- FREEZE (R90): N lanes of freeze_M. -/
def execFreeze (d a : Nat) (s : State) : Host.Outcome State Fault Refusal :=
  commandCycle (.freeze d a) (fun p t => writeCoeffs d (fun i => wrap16 (freeze p.M (coeff t a i))) p.N t) s

end Sys2Proof.Machine
end

