-- ==== Sys2Proof/Machine/Weight.lean ====
section
/-! DEFINITION. MaskedWeightCheck: WCHECK (R101). -/

namespace Sys2Proof.Machine

/-- A coefficient counts under the policy (R101): nonzero for P = 0, equal to +1 for P = 1. -/
def counts (pol : WeightPolicy) (v : Half) : Bool :=
  match pol with
  | .nonzero => v != 0
  | .plusOne => v == 1

/-- The weight over the coefficients 0 .. L-1 (R101). -/
def weight (pol : WeightPolicy) (A : Nat → Half) : Nat → Nat
  | 0 => 0
  | l + 1 => weight pol A l + if counts pol (A l) then 1 else 0

/-- The 16-bit mask (R101): all zeros when the weight is W, else all ones. -/
def weightMask (wt w : Nat) : Half := if wt = w then 0x0000#16 else 0xFFFF#16

/-- The output formulas (R101): ((v XOR 1) AND NOT mask) XOR 1 in the first W positions, v AND NOT mask in
the rest. -/
def maskedCoeff (mask : Half) (w i : Nat) (v : Half) : Half :=
  if i < w then ((v ^^^ 0x0001#16) &&& ~~~mask) ^^^ 0x0001#16 else v &&& ~~~mask

/-- WMASK (R101, R38). -/
def wmaskWord (mask : Half) : Word := if mask = 0xFFFF#16 then 0xFFFFFFFF#32 else 0x00000000#32

/-- WCHECK (R101). -/
def execWcheck (d a : Nat) (pol : WeightPolicy) (s : State) : Host.Outcome State Fault Refusal :=
  commandCycle (.wcheck d a pol)
    (fun p t =>
      let mask := weightMask (weight pol (readCoeff t a) p.L) p.W
      { writeCoeffs d (fun i => maskedCoeff mask p.W i (readCoeff t a i)) p.N t with wmask := wmaskWord mask })
    s

end Sys2Proof.Machine
end

