-- ==== Sys2Proof/Machine/Dispatch.lean ====
section
/-! DEFINITION. The meaning of every command: one arm for each constructor of Instr (R66). -/

namespace Sys2Proof.Machine

def exec (i : Instr) (s : State) : Host.Outcome State Fault Refusal :=
  match i with
  | .nop => Sys2Proof.Machine.execNop s
  | .sfreeze => Sys2Proof.Machine.execSfreeze s
  | .freeze d a => Sys2Proof.Machine.execFreeze d a s
  | .add d a b r => Sys2Proof.Machine.execAdd d a b r s
  | .sub d a b r => Sys2Proof.Machine.execSub d a b r s
  | .smul d a r => Sys2Proof.Machine.execSmul d a r s
  | .mul d a b => Sys2Proof.Machine.execMul d a b s
  | .wcheck d a p => Sys2Proof.Machine.execWcheck d a p s
  | .top d a => Sys2Proof.Machine.execTop d a s
  | .topenc a => Sys2Proof.Machine.execTopenc a s
  | .topdec d => Sys2Proof.Machine.execTopdec d s
  | .inenc a => Sys2Proof.Machine.execInenc a s
  | .indec d => Sys2Proof.Machine.execIndec d s

end Sys2Proof.Machine
end

