-- ==== Sys2Proof/WellFormed.lean ====
section
/-! DEFINITION. When a command can be written as a word: each bank index fits its 4-bit field (R65). An index of 8 to 15 is well-formed and is rejected only when the command starts (R113, code 0x03). -/

namespace Sys2Proof

/-- A bank index fits a 4-bit field (R63, R65). -/
def bankFieldFits (x : Nat) : Bool := x < 16

/-- Every field of the command fits its place in the word (R63). -/
def Instr.wellFormed : Instr → Bool
  | .nop => true
  | .sfreeze => true
  | .freeze d a => bankFieldFits d && bankFieldFits a
  | .add d a b _ => bankFieldFits d && bankFieldFits a && bankFieldFits b
  | .sub d a b _ => bankFieldFits d && bankFieldFits a && bankFieldFits b
  | .smul d a _ => bankFieldFits d && bankFieldFits a
  | .mul d a b => bankFieldFits d && bankFieldFits a && bankFieldFits b
  | .wcheck d a _ => bankFieldFits d && bankFieldFits a
  | .top d a => bankFieldFits d && bankFieldFits a
  | .topenc a => bankFieldFits a
  | .topdec d => bankFieldFits d
  | .inenc a => bankFieldFits a
  | .indec d => bankFieldFits d

end Sys2Proof
end

