-- ==== Sys2Proof/Decode.lean ====
section
/-! DEFINITION. The command word (R63): its fields, the decoder (total, rejecting by name), and the encoder (R71). -/

namespace Sys2Proof

/-- Why a word is no command: R68 (opcode 0x0D to 0xFF) and R69 (bits [31:22] not zero). -/
inductive BadWord where
  | illegalOp
  | reserved
  deriving DecidableEq, Repr

/-- What the decoder answers. -/
inductive Decoded where
  | ok (i : Instr)
  | bad (why : BadWord)
  deriving DecidableEq, Repr

/-- OP, bits [7:0] (R63). -/
def opField (w : Word) : Nat := (w.extractLsb' 0 8).toNat

/-- D, bits [11:8] (R63, R65: zext_4). -/
def dField (w : Word) : Nat := (w.extractLsb' 8 4).toNat

/-- A, bits [15:12] (R63). -/
def aField (w : Word) : Nat := (w.extractLsb' 12 4).toNat

/-- B, bits [19:16] (R63). -/
def bField (w : Word) : Nat := (w.extractLsb' 16 4).toNat

/-- R, bit [20] (R63): 1 freezes the result of ADD, SUB, SMUL. -/
def rField (w : Word) : Bool := w.getLsbD 20

/-- P, bit [21] (R63): 0 counts nonzero, 1 counts +1. -/
def pField (w : Word) : WeightPolicy := if w.getLsbD 21 then .plusOne else .nonzero

/-- RSV, bits [31:22] (R63, R69). -/
def rsvField (w : Word) : Nat := (w.extractLsb' 22 10).toNat

/-- The opcode map (R66): the command OP selects, or none for 0x0D to 0xFF (R68). -/
def decodeOp (w : Word) : Option Instr :=
  match opField w with
  | 0x00 => some .nop
  | 0x01 => some .sfreeze
  | 0x02 => some (.freeze (dField w) (aField w))
  | 0x03 => some (.add (dField w) (aField w) (bField w) (rField w))
  | 0x04 => some (.sub (dField w) (aField w) (bField w) (rField w))
  | 0x05 => some (.smul (dField w) (aField w) (rField w))
  | 0x06 => some (.mul (dField w) (aField w) (bField w))
  | 0x07 => some (.wcheck (dField w) (aField w) (pField w))
  | 0x08 => some (.top (dField w) (aField w))
  | 0x09 => some (.topenc (aField w))
  | 0x0A => some (.topdec (dField w))
  | 0x0B => some (.inenc (aField w))
  | 0x0C => some (.indec (dField w))
  | _ => none

/-- The decoder. An illegal opcode is named before a reserved bit (R115). -/
def decode (w : Word) : Decoded :=
  match decodeOp w with
  | none => .bad .illegalOp
  | some i => if rsvField w = 0 then .ok i else .bad .reserved

/-- The word `0000000000 P R BBBB AAAA DDDD OOOOOOOO` (R63). -/
def packWord (op d a b : Nat) (r p : Bool) : Word :=
  0#10 ++ BitVec.ofBool p ++ BitVec.ofBool r ++ BitVec.ofNat 4 b ++ BitVec.ofNat 4 a ++ BitVec.ofNat 4 d ++
    BitVec.ofNat 8 op

/-- P as a bit (R63). -/
def WeightPolicy.bit : WeightPolicy → Bool
  | .nonzero => false
  | .plusOne => true

/-- The word of a command, its unused fields 0 (R71, R67). -/
def encode : Instr → Word
  | .nop => packWord 0x00 0 0 0 false false
  | .sfreeze => packWord 0x01 0 0 0 false false
  | .freeze d a => packWord 0x02 d a 0 false false
  | .add d a b r => packWord 0x03 d a b r false
  | .sub d a b r => packWord 0x04 d a b r false
  | .smul d a r => packWord 0x05 d a 0 r false
  | .mul d a b => packWord 0x06 d a b false false
  | .wcheck d a p => packWord 0x07 d a 0 false p.bit
  | .top d a => packWord 0x08 d a 0 false false
  | .topenc a => packWord 0x09 0 a 0 false false
  | .topdec d => packWord 0x0A d 0 0 false false
  | .inenc a => packWord 0x0B 0 a 0 false false
  | .indec d => packWord 0x0C d 0 0 false false

/-- The bits of a command word that the command reads: OP, RSV and the fields of its row of R66. Every
other bit is ignored (R67). -/
def usedBits : Instr → Word
  | .nop => 0xFFC000FF#32
  | .sfreeze => 0xFFC000FF#32
  | .freeze _ _ => 0xFFC0FFFF#32
  | .add _ _ _ _ => 0xFFDFFFFF#32
  | .sub _ _ _ _ => 0xFFDFFFFF#32
  | .smul _ _ _ => 0xFFD0FFFF#32
  | .mul _ _ _ => 0xFFCFFFFF#32
  | .wcheck _ _ _ => 0xFFE0FFFF#32
  | .top _ _ => 0xFFC0FFFF#32
  | .topenc _ => 0xFFC0F0FF#32
  | .topdec _ => 0xFFC00FFF#32
  | .inenc _ => 0xFFC0F0FF#32
  | .indec _ => 0xFFC00FFF#32

/-- The word the host would store for a table row's bits: bit 0 is the least significant, every bit from
`nbits` on is 0 (a command is one 32-bit word, R64). -/
def tableWord (nbits w : Nat) : Word := BitVec.ofNat 32 (w % 2 ^ nbits)

/-- The command the decoder reads from a row's bits. -/
def decodeTableWord (nbits w : Nat) : Option Instr :=
  match decode (tableWord nbits w) with
  | .ok i => some i
  | .bad _ => none

end Sys2Proof
end

