-- ==== Sys2Proof/Machine/Footprint.lean ====
section
/-! DEFINITION. Which cells a command reads and writes (R80, R104, R101), as functions of the command and of public registers only (R81), and the command in flight's destination (R130). -/

namespace Sys2Proof.Machine

/-- The cells of coefficients 0 .. n-1 of bank b (R80): two for each. -/
def bankCells (b n : Nat) : List Nat := (List.range n).flatMap (fun i => [coeffAddr b i, coeffAddr b i + 1])

/-- The cells of a buffer window of nb bytes at off (R104). -/
def windowCells (off nb : Nat) : List Nat := (List.range nb).map (fun j => bufAddr (off + j))

/-- The public operands on which a command's footprint may depend (R81): N, I, W, WLEN, BOFF. R and P are
part of the command. -/
structure PublicOperands where
  n : Nat
  i : Nat
  w : Nat
  wlen : Nat
  off : Nat
  deriving DecidableEq, Repr

/-- The public part of the parameter registers (R81). -/
def Params.public (p : Params) : PublicOperands := ⟨p.N, p.I, p.W, p.wlen.toNat, p.off⟩

/-- The element count a command acts on (R80): N for the ring commands and WCHECK, I for the codec
commands, and none for NOP and SFREEZE, which have no polynomial operand. -/
def elementCount (i : Instr) (q : PublicOperands) : Nat :=
  match i with
  | .nop => 0
  | .sfreeze => 0
  | .freeze _ _ => q.n
  | .add _ _ _ _ => q.n
  | .sub _ _ _ _ => q.n
  | .smul _ _ _ => q.n
  | .mul _ _ _ => q.n
  | .wcheck _ _ _ => q.n
  | .top _ _ => q.i
  | .topenc _ => q.i
  | .topdec _ => q.i
  | .inenc _ => q.i
  | .indec _ => q.i

/-- The bank a command writes (R66): field D where the command uses it. -/
def destBank : Instr → Option Nat
  | .nop => none
  | .sfreeze => none
  | .freeze d _ => some d
  | .add d _ _ _ => some d
  | .sub d _ _ _ => some d
  | .smul d _ _ => some d
  | .mul d _ _ => some d
  | .wcheck d _ _ => some d
  | .top d _ => some d
  | .topenc _ => none
  | .topdec d => some d
  | .inenc _ => none
  | .indec d => some d

/-- The elements in a byte of the window a command writes (R104), for the two commands that write the
buffer. -/
def destWindow : Instr → Option Nat
  | .nop => none
  | .sfreeze => none
  | .freeze _ _ => none
  | .add _ _ _ _ => none
  | .sub _ _ _ _ => none
  | .smul _ _ _ => none
  | .mul _ _ _ => none
  | .wcheck _ _ _ => none
  | .top _ _ => none
  | .topenc _ => some 2
  | .topdec _ => none
  | .inenc _ => some 8
  | .indec _ => none

/-- The cells a command writes at completion (R80, R104): its destination coefficients or its buffer
window. These are the cells a soft reset that aborts it leaves unspecified (R130). -/
def destCells (i : Instr) (q : PublicOperands) : List Nat :=
  match destBank i, destWindow i with
  | some d, _ => bankCells d (elementCount i q)
  | none, some per => windowCells q.off (windowBytes per (elementCount i q))
  | none, none => []

/-- The cells a command reads (R80, R104). -/
def sourceCells (i : Instr) (q : PublicOperands) : List Nat :=
  match i with
  | .nop => []
  | .sfreeze => []
  | .freeze _ a => bankCells a q.n
  | .add _ a b _ => bankCells a q.n ++ bankCells b q.n
  | .sub _ a b _ => bankCells a q.n ++ bankCells b q.n
  | .smul _ a _ => bankCells a q.n
  | .mul _ a b => bankCells a q.n ++ bankCells b q.n
  | .wcheck _ a _ => bankCells a q.n
  | .top _ a => bankCells a q.i
  | .topenc a => bankCells a q.i
  | .topdec _ => windowCells q.off (windowBytes 2 q.i)
  | .inenc a => bankCells a q.i
  | .indec _ => windowCells q.off (windowBytes 8 q.i)

/-- The cells the command in flight would have written (R130). -/
def inFlightCells (f : InFlight) : List Nat :=
  match decode f.word with
  | .ok i => destCells i f.params.public
  | .bad _ => []

end Sys2Proof.Machine
end

