-- ==== Sys2Proof/Machine/Registers.lean ====
section
/-! DEFINITION. The register file (R18 to R39): the map from offsets to registers, what each register reads, and what a host write stores. CTRL's actions stand in Port. -/

namespace Sys2Proof.Machine

/-- The registers of the map (R19). -/
inductive Reg where
  | id
  | cfg0
  | cfg1
  | ctrl
  | status
  | errcode
  | cmd
  | pn
  | pm
  | pw
  | pi
  | tau0
  | tau1
  | scalar
  | boff
  | wlen
  | finLo
  | finHi
  | fout
  | wmask
  deriving DecidableEq, Repr

/-- The offset of a register (R19). -/
def Reg.offset : Reg → Nat
  | .id => 0x000
  | .cfg0 => 0x004
  | .cfg1 => 0x008
  | .ctrl => 0x010
  | .status => 0x014
  | .errcode => 0x018
  | .cmd => 0x01C
  | .pn => 0x020
  | .pm => 0x024
  | .pw => 0x028
  | .pi => 0x02C
  | .tau0 => 0x030
  | .tau1 => 0x034
  | .scalar => 0x038
  | .boff => 0x03C
  | .wlen => 0x040
  | .finLo => 0x044
  | .finHi => 0x048
  | .fout => 0x04C
  | .wmask => 0x050

/-- The register at an offset (R19); none for the reserved offsets 0x00C and 0x054 to 0xFFFC (R39). -/
def Reg.at (off : Nat) : Option Reg :=
  match off with
  | 0x000 => some .id
  | 0x004 => some .cfg0
  | 0x008 => some .cfg1
  | 0x010 => some .ctrl
  | 0x014 => some .status
  | 0x018 => some .errcode
  | 0x01C => some .cmd
  | 0x020 => some .pn
  | 0x024 => some .pm
  | 0x028 => some .pw
  | 0x02C => some .pi
  | 0x030 => some .tau0
  | 0x034 => some .tau1
  | 0x038 => some .scalar
  | 0x03C => some .boff
  | 0x040 => some .wlen
  | 0x044 => some .finLo
  | 0x048 => some .finHi
  | 0x04C => some .fout
  | 0x050 => some .wmask
  | _ => none

/-- CFG0 (R21): [15:0] = NMAX, [19:16] = NBANK, the rest 0. -/
def cfg0Word (bd : Build) : Word := 0#12 ++ BitVec.ofNat 4 bd.nbank ++ BitVec.ofNat 16 bd.nmax

/-- CFG1 (R22): BUFSZ. -/
def cfg1Word (bd : Build) : Word := BitVec.ofNat 32 bd.bufsz

/-- What a register reads (R18 to R38). Bits a register's table does not list read 0. -/
def readReg (r : Reg) (s : State) : Word :=
  match r with
  | .id => Config.idWord
  | .cfg0 => cfg0Word s.build
  | .cfg1 => cfg1Word s.build
  | .ctrl => s.ctrlWord
  | .status => s.statusWord
  | .errcode => s.errcode.number.setWidth 32
  | .cmd => s.cmd
  | .pn => s.params.pn.setWidth 32
  | .pm => s.params.pm.setWidth 32
  | .pw => s.params.pw.setWidth 32
  | .pi => s.params.pi.setWidth 32
  | .tau0 => s.params.tau0
  | .tau1 => s.params.tau1
  | .scalar => s.params.scalar
  | .boff => s.params.boff.setWidth 32
  | .wlen => s.params.wlen.setWidth 32
  | .finLo => s.params.finLo
  | .finHi => s.params.finHi
  | .fout => s.fout
  | .wmask => s.wmask

/-- The registers whose host write is ignored with error 0x09 while a command is in flight (R57): CMD and
the parameter registers. -/
def Reg.locked : Reg → Bool
  | .cmd | .pn | .pm | .pw | .pi | .tau0 | .tau1 | .scalar | .boff | .wlen | .finLo | .finHi => true
  | .id | .cfg0 | .cfg1 | .ctrl | .status | .errcode | .fout | .wmask => false

/-- What a host write to an RW register stores (R18, R27 to R36). A write to an RO register stores
nothing; CTRL and STATUS have operations of their own. -/
def storeReg (r : Reg) (v : Word) (s : State) : State :=
  match r with
  | .cmd => { s with cmd := v }
  | .pn => { s with params := { s.params with pn := v.setWidth 16 } }
  | .pm => { s with params := { s.params with pm := v.setWidth 16 } }
  | .pw => { s with params := { s.params with pw := v.setWidth 16 } }
  | .pi => { s with params := { s.params with pi := v.setWidth 16 } }
  | .tau0 => { s with params := { s.params with tau0 := v } }
  | .tau1 => { s with params := { s.params with tau1 := v } }
  | .scalar => { s with params := { s.params with scalar := v } }
  | .boff => { s with params := { s.params with boff := v.setWidth 16 } }
  | .wlen => { s with params := { s.params with wlen := v.setWidth 16 } }
  | .finLo => { s with params := { s.params with finLo := v } }
  | .finHi => { s with params := { s.params with finHi := v } }
  | .id => s
  | .cfg0 => s
  | .cfg1 => s
  | .ctrl => s
  | .status => s
  | .errcode => s
  | .fout => s
  | .wmask => s

/-- A host write to STATUS (R24, R26, R117): a 1 in bit 1, 2 or 3 clears DONE, ERR with CODE, or OVF. BUSY
ignores writes. -/
def writeStatus (v : Word) (s : State) : State :=
  let s1 := if v.getLsbD 1 then { s with done := false } else s
  let s2 := if v.getLsbD 2 then acknowledge s1 else s1
  if v.getLsbD 3 then { s2 with ovf := false } else s2

end Sys2Proof.Machine
end

