-- ==== Sys2Proof/Machine/Port.lean ====
section
/-! DEFINITION. The host port and the events of the machine: what an offset names (R49 to R51), host reads and writes (R18, R54, R57, R58), START (R74), the soft reset (R130), completion (R76), WAIT (R73), and how a command word is placed where the engine takes its next command. -/

namespace Sys2Proof.Machine

/-- What an aligned offset in the aperture names (R49). -/
inductive Target where
  | register (r : Reg)
  | coefficient (b i : Nat)
  | bufferWord (k : Nat)
  | reserved
  deriving DecidableEq, Repr

/-- The four regions (R49), the bank windows (R50) and the buffer window (R51). `bufferWord k` starts at
byte k, a multiple of 4. -/
def target (bd : Build) (off : Nat) : Target :=
  if off < 0x10000 then
    match Reg.at off with
    | some r => .register r
    | none => .reserved
  else if off < 0x20000 then
    let b := (off - 0x10000) / 0x2000
    let i := (off - 0x10000) % 0x2000 / 4
    if b < bd.nbank ∧ i < bd.nmax then .coefficient b i else .reserved
  else if off < 0x30000 then
    let k := off - 0x20000
    if k < bd.bufsz then .bufferWord k else .reserved
  else .reserved

/-- What a buffer word reads (R51): {buf[k+3], buf[k+2], buf[k+1], buf[k]}. -/
def readBufWord (s : State) (k : Nat) : Word := readBuf s (k + 3) ++ readBuf s (k + 2) ++ readBuf s (k + 1) ++ readBuf s k

/-- What a write of a buffer word stores (R51): byte k + j is bits [8j+7:8j]. -/
def writeBufWord (k : Nat) (v : Word) (s : State) : State := writeBufs k (fun j => v.extractLsb' (8 * j) 8) 4 s

/-- The host takes the value a read returned (log 14). -/
def answer (w : Word) (s : State) : State := { s with hostReads := w :: s.hostReads }

/-- A host read of a bank or buffer word while BUSY (R58, U3): a fresh free value. -/
def answerBusy (s : State) : State :=
  { s with hostReads := Config.busyReadWord s.draws :: s.hostReads, draws := s.draws + 1 }

/-- A host read of what an offset names (R18, R50, R51, R58). -/
def readTarget (t : Target) (s : State) : State :=
  match t with
  | .register r => answer (readReg r s) s
  | .coefficient b i => if s.busy then answerBusy s else answer ((readCoeff s b i).signExtend 32) s
  | .bufferWord k => if s.busy then answerBusy s else answer (readBufWord s k) s
  | .reserved => answer 0 s

/-- The command in flight, if any, is aborted (R130): its destination cells become unspecified. -/
def abort (s : State) : State :=
  match s.inflight with
  | none => s
  | some f => scramble s.draws (inFlightCells f) { s with draws := s.draws + 1 }

/-- Soft reset (R130): abort, then every register at its reset value. -/
def softReset (s : State) : State := resetRegisters (abort s)

/-- START with no command in flight (R74): the word in CMD is decoded and checked. A bad word is rejected
(R68, R69); a command is started by its meaning, which makes its checks (R114). -/
def startCommand (s : State) : Host.Outcome State Fault Refusal :=
  match decode s.cmd with
  | .ok i => exec i s
  | .bad .illegalOp => .next (reject .illegalOp s)
  | .bad .reserved => .next (reject .reserved s)

/-- A host write to CTRL (R23, R57, R130): SRST alone acts when it is set; else IE is stored, then START
acts, and while BUSY it is ignored with error 0x09. SRST with START records no error, BUSY or not (log 21). -/
def writeCtrl (v : Word) (s : State) : Host.Outcome State Fault Refusal :=
  if v.getLsbD 1 then .next (softReset s)
  else
    let s1 := { s with ie := v.getLsbD 2 }
    if v.getLsbD 0 then (if s1.busy then .next (busyError s1) else startCommand s1) else .next s1

/-- A host write that R57 ignores while BUSY, with error 0x09. -/
def guarded (store : State → State) (s : State) : State := if s.busy then busyError s else store s

/-- A host write to what an offset names (R18, R50, R51, R57). -/
def writeTarget (t : Target) (v : Word) (s : State) : Host.Outcome State Fault Refusal :=
  match t with
  | .register .ctrl => writeCtrl v s
  | .register .status => .next (writeStatus v s)
  | .register r => .next (if r.locked then guarded (storeReg r v) s else s)
  | .coefficient b i => .next (guarded (writeCoeff b i (v.setWidth 16)) s)
  | .bufferWord k => .next (guarded (writeBufWord k v) s)
  | .reserved => .next s

/-- A 32-bit host access (R54, R48): refused when misaligned (U2, log 10), a fault outside the aperture (log
9), else `act` on what the offset names. -/
def access (off : Nat) (s : State) (act : Target → Host.Outcome State Fault Refusal) :
    Host.Outcome State Fault Refusal :=
  if off % 4 ≠ 0 then .refused .accessMisaligned
  else if 0x40000 ≤ off then .fault .outsideAperture
  else act (target s.build off)

/-- The sequencer completes the command in flight (R76); with none in flight it is idle (R128, log 1). -/
def complete (s : State) : Host.Outcome State Fault Refusal :=
  match s.inflight with
  | none => .next s
  | some f =>
    match decode f.word with
    | .ok i => exec i s
    | .bad _ => .fault .inFlightUndecodable

/-- One step of a WAIT (R73), with the events after it in the agenda. With BUSY = 0 the read of STATUS ends it. With
BUSY = 1 it stays next: the host reads STATUS, and after `polls` such reads the sequencer completes the command (log
20). -/
def waitStep (polls : Nat) (s : State) : Host.Outcome State Fault Refusal :=
  if s.busy then
    match polls with
    | 0 => complete { s with agenda := .hostWait 0 :: s.agenda }
    | k + 1 => .next (answer (readReg .status s) { s with agenda := .hostWait k :: s.agenda })
  else .next (answer (readReg .status s) s)

/-- One event (R119). -/
def runEvent (e : Event) (s : State) : Host.Outcome State Fault Refusal :=
  match e with
  | .hostRead off => access off s (fun t => .next (readTarget t s))
  | .hostWrite off v => access off s (fun t => writeTarget t v s)
  | .hostOther _ _ => .refused .accessWidth
  | .hostWait polls => waitStep polls s
  | .completion => complete s
  | .hardReset => .next (hardReset s)

/-- The state whose next event is the START of a command word (log 2): the word is in CMD (R27, R62), no
command is in flight (R74), and the host's write of CTRL.START, keeping IE (R73), comes first. -/
def placeCommand (w : Word) (s : State) : State :=
  { s with
    cmd := w, inflight := none,
    agenda := .hostWrite Reg.ctrl.offset (0#29 ++ BitVec.ofBool s.ie ++ 0b01#2) :: s.agenda }

end Sys2Proof.Machine
end

