-- ==== Sys2Proof/Machine/Step.lean ====
section
/-! DEFINITION. One step of the machine (R119): the first event of the agenda, or, when no event is to come, the completion of the command in flight (R76, log 1). -/

namespace Sys2Proof.Machine

/-- One atomic step (R119). An empty agenda leaves only the sequencer: it completes the command in flight,
which R76 and R139 say happens after a finite time, and is idle after that (R128). -/
def step (s : State) : Host.Outcome State Fault Refusal :=
  match s.agenda with
  | [] => complete s
  | e :: rest => runEvent e { s with agenda := rest }

/-- `s` with the command word of a table row placed so that the next step starts it (log 2). -/
def State.withFetchWord (s : State) (nbits w : Nat) : State := placeCommand (tableWord nbits w) s

end Sys2Proof.Machine
end

