-- ==== Sys2Proof/Machine/Program.lean ====
section
/-! DEFINITION. Host programs (R72) and the assembler's pseudo-instructions (R73), as lists of events. -/

namespace Sys2Proof.Machine

/-- `WR <reg>, v` (R72). -/
def wr (r : Reg) (v : Word) : Event := .hostWrite r.offset v

/-- `RD <reg>` (R72). -/
def rd (r : Reg) : Event := .hostRead r.offset

/-- `WR bank[b][i], v` (R72). -/
def wrBank (b i : Nat) (v : Word) : Event := .hostWrite (coeffAddr b i) v

/-- `RD bank[b][i]` (R72). -/
def rdBank (b i : Nat) : Event := .hostRead (coeffAddr b i)

/-- `WR buf[k], v` (R72), k a multiple of 4. -/
def wrBuf (k : Nat) (v : Word) : Event := .hostWrite (bufAddr k) v

/-- `RD buf[k]` (R72), k a multiple of 4. -/
def rdBuf (k : Nat) : Event := .hostRead (bufAddr k)

/-- The pseudo-instructions (R73). -/
inductive Pseudo where
  | set (r : Reg) (v : Word)
  | wait
  | run (i : Instr)
  | clrst
  | copy (d a : Nat)
  | neg (d a : Nat)
  | zero (d : Nat)
  | r3red (d a : Nat)
  deriving DecidableEq, Repr

/-- WAIT (R73) as an event: reads of STATUS until one finds BUSY = 0. `polls` is the delay (log 20). -/
def waitEvents (polls : Nat) : List Event := [.hostWait polls]

/-- RUN (R73): write CMD, START, WAIT. `ie` is the value the program keeps in CTRL.IE. -/
def runEvents (ie : Bool) (polls : Nat) (i : Instr) : List Event :=
  [wr .cmd (encode i), wr .ctrl (0#29 ++ BitVec.ofBool ie ++ 0b01#2)] ++ waitEvents polls

/-- The expansions of R73. -/
def Pseudo.expand (ie : Bool) (polls : Nat) : Pseudo → List Event
  | .set r v => [wr r v]
  | .wait => waitEvents polls
  | .run i => runEvents ie polls i
  | .clrst => [wr .status 0xE#32]
  | .copy d a => wr .scalar 1#32 :: runEvents ie polls (.smul d a false)
  | .neg d a => wr .scalar 0xFFFFFFFF#32 :: runEvents ie polls (.smul d a false)
  | .zero d => wr .scalar 0#32 :: runEvents ie polls (.smul d d false)
  | .r3red d a => wr .pm 3#32 :: runEvents ie polls (.freeze d a)

end Sys2Proof.Machine
end

