-- ==== Sys2Proof/Safety.lean ====
section
/-! DEFINITION. What claims are stated in terms of: existing cells, the invariant of a run, host accesses the spec defines, and the frame of an event. -/

namespace Sys2Proof.Machine

/-- An offset holds a byte of a bank coefficient (R40) or of the byte buffer (R43). -/
def CellExists (bd : Build) (a : Nat) : Prop :=
  (∃ b i, b < bd.nbank ∧ i < bd.nmax ∧ (a = coeffAddr b i ∨ a = coeffAddr b i + 1)) ∨
    ∃ k, k < bd.bufsz ∧ a = bufAddr k

/-- The command in flight was accepted: its word decodes and its copied registers pass every check of
R114 (R74, R75). -/
def InFlightAccepted (bd : Build) (f : InFlight) : Prop :=
  ∃ i, decode f.word = .ok i ∧ firstError bd f.params (checks i) = none

/-- What every step of the machine keeps. -/
structure State.Inv (s : State) : Prop where
  /-- the sizes are legal (R8) -/
  legal : s.build.Legal
  /-- the memory keeps its one form -/
  wf : s.mem.wf
  /-- memory lists only cells of the banks and the buffer (R40, R43) -/
  mapped : ∀ c ∈ s.mem, CellExists s.build c.1
  /-- a command in flight has passed every check (R74, R75) -/
  accepted : ∀ f, s.inflight = some f → InFlightAccepted s.build f
  /-- CODE is 0x00 exactly while ERR = 0 (R113, R117) -/
  errorCode : s.err = false ↔ s.errcode = .none
  /-- WMASK holds one of its two values (R38) -/
  wmaskValue : s.wmask = 0x00000000#32 ∨ s.wmask = 0xFFFFFFFF#32
  /-- FOUT holds a 16-bit value sign-extended (R37) -/
  foutValue : s.fout = (s.fout.setWidth 16).signExtend 32

/-- The event is one the spec defines (R54, R48): a completion, a hardware reset, or an aligned 32-bit host
access inside the aperture (a WAIT makes such reads). -/
def Event.Defined : Event → Prop
  | .hostRead off => off % 4 = 0 ∧ off < 0x40000
  | .hostWrite off _ => off % 4 = 0 ∧ off < 0x40000
  | .hostOther _ _ => False
  | .hostWait _ => True
  | .completion => True
  | .hardReset => True

/-- The cell holds a byte of one of the coefficients 0 .. n-1 of bank d. -/
def LaneCell (d n x : Nat) : Prop := ∃ i, i < n ∧ (x = coeffAddr d i ∨ x = coeffAddr d i + 1)

/-- The cell holds one of the n buffer bytes from off on. -/
def WindowCell (off n x : Nat) : Prop := ∃ j, j < n ∧ x = bufAddr (off + j)

/-- The completion of a command from `s` to `t` (R76): BUSY <- 0, DONE <- 1, every cell outside `touched`
reads as before, and no register changes but OVF, FOUT and WMASK, of which each command's rule speaks. -/
structure CompletionFrame (s t : State) (touched : Nat → Prop) : Prop where
  busy : t.inflight = none
  done : t.done = true
  cells : ∀ x, ¬ touched x → readByte t x = readByte s x
  build : t.build = s.build
  ie : t.ie = s.ie
  err : t.err = s.err
  errcode : t.errcode = s.errcode
  cmd : t.cmd = s.cmd
  params : t.params = s.params
  agenda : t.agenda = s.agenda
  hostReads : t.hostReads = s.hostReads
  epoch : t.epoch = s.epoch
  draws : t.draws = s.draws

/-- The next event is a completion: it heads the agenda, or the agenda is empty (log 1), or a WAIT heads it whose
command in flight now completes (log 20); that WAIT stays next. -/
def CompletionIsNext (s : State) (rest : List Event) : Prop :=
  s.agenda = .completion :: rest ∨ (s.agenda = [] ∧ rest = []) ∨
    (s.inflight ≠ none ∧ s.agenda = rest ∧ ∃ later, rest = .hostWait 0 :: later)

/-- The next event is a host write. -/
def HostWriteIsNext (s : State) (off : Nat) (v : Word) (rest : List Event) : Prop :=
  s.agenda = .hostWrite off v :: rest

/-- The next event is a host read. -/
def HostReadIsNext (s : State) (off : Nat) (rest : List Event) : Prop := s.agenda = .hostRead off :: rest

end Sys2Proof.Machine
end

