-- ==== Sys2Proof/Certificates/Slice0/Obligations.lean ====
section
/-! DEFINITION. The statements about the model, from the numbered rules of spec/. Each definition's docstring says which rule it formalises. -/

open Sys2Proof Sys2Proof.Machine

/-! ### Encoding -/

/-- 95_test_vectors.md, words of programs P1 to P4 and section 2.8. -/
def Obligations.SampleCommandWordsDecode : Prop :=
  decode 0x00000000#32 = .ok .nop ∧ decode 0x00000001#32 = .ok .sfreeze ∧ decode 0x00003402#32 = .ok (.freeze 4 3) ∧
  decode 0x00110303#32 = .ok (.add 3 0 1 true) ∧ decode 0x00103305#32 = .ok (.smul 3 3 true) ∧
  decode 0x00010306#32 = .ok (.mul 3 0 1) ∧ decode 0x00205707#32 = .ok (.wcheck 7 5 .plusOne) ∧
  decode 0x00005608#32 = .ok (.top 6 5) ∧ decode 0x00006009#32 = .ok (.topenc 6) ∧
  decode 0x0000070A#32 = .ok (.topdec 7) ∧ decode 0x0000000B#32 = .ok (.inenc 0) ∧
  decode 0x0000010C#32 = .ok (.indec 1) ∧ decode 0x8000000D#32 = .bad .illegalOp ∧
  decode 0x00410203#32 = .bad .reserved

/-- R63, R65, R66: no field of a command is lost in its word. -/
def Obligations.DecodeOfEncodeIsTheCommand : Prop :=
  ∀ i : Instr, i.wellFormed = true → decode (encode i) = .ok i

/-- R66: the opcode map, every row of it. -/
def Obligations.OpcodeAndReservedBitsSelectTheCommand : Prop :=
  ∀ w : Word,
    (w &&& 0xFFC000FF#32 = 0x00#32 → decode w = .ok .nop) ∧
    (w &&& 0xFFC000FF#32 = 0x01#32 → decode w = .ok .sfreeze) ∧
    (w &&& 0xFFC000FF#32 = 0x02#32 → decode w = .ok (.freeze (dField w) (aField w))) ∧
    (w &&& 0xFFC000FF#32 = 0x03#32 → decode w = .ok (.add (dField w) (aField w) (bField w) (rField w))) ∧
    (w &&& 0xFFC000FF#32 = 0x04#32 → decode w = .ok (.sub (dField w) (aField w) (bField w) (rField w))) ∧
    (w &&& 0xFFC000FF#32 = 0x05#32 → decode w = .ok (.smul (dField w) (aField w) (rField w))) ∧
    (w &&& 0xFFC000FF#32 = 0x06#32 → decode w = .ok (.mul (dField w) (aField w) (bField w))) ∧
    (w &&& 0xFFC000FF#32 = 0x07#32 → decode w = .ok (.wcheck (dField w) (aField w) (pField w))) ∧
    (w &&& 0xFFC000FF#32 = 0x08#32 → decode w = .ok (.top (dField w) (aField w))) ∧
    (w &&& 0xFFC000FF#32 = 0x09#32 → decode w = .ok (.topenc (aField w))) ∧
    (w &&& 0xFFC000FF#32 = 0x0A#32 → decode w = .ok (.topdec (dField w))) ∧
    (w &&& 0xFFC000FF#32 = 0x0B#32 → decode w = .ok (.inenc (aField w))) ∧
    (w &&& 0xFFC000FF#32 = 0x0C#32 → decode w = .ok (.indec (dField w))) ∧
    (∀ i, decode w = .ok i → ∃ k : Nat, k ≤ 0x0C ∧ w &&& 0xFFC000FF#32 = BitVec.ofNat 32 k) ∧
    (0x0D ≤ (w &&& 0xFF#32).toNat → decode w = .bad .illegalOp)

/-- R67: a field the command does not use changes nothing, and an assembler writes it as 0. -/
def Obligations.IgnoredFieldsChangeNothing : Prop :=
  (∀ (w v : Word) (i : Instr), decode w = .ok i → v &&& usedBits i = w &&& usedBits i → decode v = .ok i) ∧
  (∀ i : Instr, i.wellFormed = true → encode i &&& ~~~ usedBits i = 0#32) ∧
  (∀ i : Instr, (usedBits i).getLsbD 20 = true ↔
    (∃ d a b r, i = .add d a b r) ∨ (∃ d a b r, i = .sub d a b r) ∨ ∃ d a r, i = .smul d a r) ∧
  (∀ i : Instr, (usedBits i).getLsbD 21 = true ↔ ∃ d a p, i = .wcheck d a p)

/-- R68, R69: what a START of a bad word does. -/
def Obligations.BadWordsAreRejectedAtStart : Prop :=
  ∀ s : State, s.inflight = none →
    (0x0D ≤ (s.cmd.extractLsb' 0 8).toNat →
      startCommand s = .next { s with err := true, errcode := .illegalOp, done := true }) ∧
    ((s.cmd.extractLsb' 0 8).toNat ≤ 0x0C → s.cmd.extractLsb' 22 10 ≠ 0 →
      startCommand s = .next { s with err := true, errcode := .reserved, done := true }) ∧
    ErrCode.illegalOp.number = 0x01#8 ∧ ErrCode.reserved.number = 0x02#8

/-! ### The command cycle -/

/-- R74, R23: with no command in flight, a host write of CTRL with START = 1 and SRST = 0 runs the command
that CMD decodes to, after storing IE. -/
def Obligations.StartRunsTheDecodedCommand : Prop :=
  ∀ (s : State) (v : Word) (rest : List Event) (i : Instr),
    HostWriteIsNext s 0x010 v rest → v.getLsbD 0 = true → v.getLsbD 1 = false → s.inflight = none →
    decode s.cmd = .ok i → step s = exec i { s with agenda := rest, ie := v.getLsbD 2 }

/-- R76: a completion runs the command in flight. When a completion is next is the model's
choice (log 1, log 20). -/
def Obligations.CompletionRunsTheCommandInFlight : Prop :=
  ∀ (s : State) (rest : List Event) (f : InFlight) (i : Instr),
    CompletionIsNext s rest → s.inflight = some f → decode f.word = .ok i →
    step s = exec i { s with agenda := rest }

/-- R114, R115: the checks of every command at START, each row in the order of report; with the numbers of the codes
(R113). -/
def Obligations.CommandsAreCheckedAtStartInOrder : Prop :=
  ∀ s : State, s.inflight = none →
    let NB := s.build.nbank
    let N := s.params.pn.toNat
    let M := s.params.pm.toNat
    let W := s.params.pw.toNat
    let I := s.params.pi.toNat
    let off := s.params.boff.toNat
    let WL := s.params.wlen.toNat
    let badN : Prop := N = 0 ∨ s.build.nmax < N
    let badW2 : Prop := s.build.bufsz < off + (I + 1) / 2
    let badW8 : Prop := s.build.bufsz < off + (I + 7) / 8
    (decode s.cmd = .bad .illegalOp → startCommand s = .next (reject .illegalOp s)) ∧
    (decode s.cmd = .bad .reserved → startCommand s = .next (reject .reserved s)) ∧
    (∀ i, decode s.cmd = .ok i → startCommand s = exec i s) ∧
    exec .nop s = .next (accept s) ∧
    exec .sfreeze s = .next (if M = 0 then reject .paramM s else accept s) ∧
    (∀ d a, exec (.freeze d a) s = .next
      (if NB ≤ d ∨ NB ≤ a then reject .bank s else if badN then reject .paramN s
       else if M = 0 then reject .paramM s else accept s)) ∧
    (∀ d a b r, exec (.add d a b r) s = .next
      (if NB ≤ d ∨ NB ≤ a ∨ NB ≤ b then reject .bank s else if badN then reject .paramN s
       else if r = true ∧ M = 0 then reject .paramM s else accept s)) ∧
    (∀ d a b r, exec (.sub d a b r) s = .next
      (if NB ≤ d ∨ NB ≤ a ∨ NB ≤ b then reject .bank s else if badN then reject .paramN s
       else if r = true ∧ M = 0 then reject .paramM s else accept s)) ∧
    (∀ d a r, exec (.smul d a r) s = .next
      (if NB ≤ d ∨ NB ≤ a then reject .bank s else if badN then reject .paramN s
       else if r = true ∧ M = 0 then reject .paramM s else accept s)) ∧
    (∀ d a b, exec (.mul d a b) s = .next
      (if NB ≤ d ∨ NB ≤ a ∨ NB ≤ b then reject .bank s else if badN then reject .paramN s
       else if M = 0 then reject .paramM s else accept s)) ∧
    (∀ d a p, exec (.wcheck d a p) s = .next
      (if NB ≤ d ∨ NB ≤ a then reject .bank s else if badN then reject .paramN s
       else if N < W ∨ N < WL then reject .paramW s else accept s)) ∧
    (∀ d a, exec (.top d a) s = .next
      (if NB ≤ d ∨ NB ≤ a then reject .bank s else if badN then reject .paramN s
       else if N < I then reject .paramI s else accept s)) ∧
    (∀ a, exec (.topenc a) s = .next
      (if NB ≤ a then reject .bank s else if badN then reject .paramN s
       else if N < I then reject .paramI s else if badW2 then reject .window s else accept s)) ∧
    (∀ d, exec (.topdec d) s = .next
      (if NB ≤ d then reject .bank s else if badN then reject .paramN s
       else if N < I then reject .paramI s else if badW2 then reject .window s else accept s)) ∧
    (∀ a, exec (.inenc a) s = .next
      (if NB ≤ a then reject .bank s else if badN then reject .paramN s
       else if N < I then reject .paramI s else if badW8 then reject .window s else accept s)) ∧
    (∀ d, exec (.indec d) s = .next
      (if NB ≤ d then reject .bank s else if badN then reject .paramN s
       else if N < I then reject .paramI s else if badW8 then reject .window s else accept s)) ∧
    ErrCode.illegalOp.number = 0x01#8 ∧ ErrCode.reserved.number = 0x02#8 ∧ ErrCode.bank.number = 0x03#8 ∧
    ErrCode.paramN.number = 0x04#8 ∧ ErrCode.paramM.number = 0x05#8 ∧ ErrCode.paramI.number = 0x06#8 ∧
    ErrCode.paramW.number = 0x07#8 ∧ ErrCode.window.number = 0x08#8

/-- R116: a START that is not accepted changes ERR, CODE and DONE and nothing else; CODE is the code of the check that
failed. -/
def Obligations.RejectionIsPrecise : Prop :=
  ∀ s t : State, s.inflight = none → startCommand s = .next t → t.inflight = none →
    t.errcode ≠ .none ∧ t.errcode ≠ .busy ∧
    t = { s with err := true, errcode := t.errcode, done := true } ∧
    (decode s.cmd = .bad .illegalOp → t.errcode = .illegalOp) ∧
    (decode s.cmd = .bad .reserved → t.errcode = .reserved) ∧
    ∀ i, decode s.cmd = .ok i → firstError s.build s.params (checks i) = some t.errcode

/-- R75: acceptance sets BUSY, takes the in-flight copy, and changes nothing else; the completion computes from the
copy, whatever CMD and the parameter registers hold by then. That the copy holds every parameter register, and not only
those the command reads, is the model's inference from R45 (log 19). -/
def Obligations.AcceptanceTakesTheCopyTheCommandRunsOn : Prop :=
  (∀ (s t : State) (f : InFlight), s.inflight = none → startCommand s = .next t → t.inflight = some f →
    f = ⟨s.cmd, s.params⟩ ∧ t = { s with inflight := some f }) ∧
  (∀ (i : Instr) (s : State) (f : InFlight) (c : Word) (p : Params), s.inflight = some f →
    ∃ t, exec i s = .next t ∧ exec i { s with cmd := c, params := p } = .next { t with cmd := c, params := p })

/-- R76, R118: whatever the command, its completion is a next state with BUSY = 0 and DONE = 1, and raises no
error. -/
def Obligations.AnAcceptedCommandCannotFail : Prop :=
  ∀ (i : Instr) (s : State) (f : InFlight), s.inflight = some f →
    ∃ t, exec i s = .next t ∧ t.inflight = none ∧ t.done = true ∧ t.err = s.err ∧ t.errcode = s.errcode

/-- R74, R75, R76, R78: START and the completion right after it, as two steps, are the command run on the
registers the START found. -/
def Obligations.StartThenCompletionRunsTheCommand : Prop :=
  ∀ (s : State) (v : Word) (rest : List Event) (i : Instr),
    s.agenda = .hostWrite 0x010 v :: .completion :: rest → v.getLsbD 0 = true → v.getLsbD 1 = false →
    s.inflight = none → decode s.cmd = .ok i → firstError s.build s.params (checks i) = none →
    Host.Core.run Sys2Proof.core 2 s =
      exec i { s with agenda := rest, ie := v.getLsbD 2, inflight := some ⟨s.cmd, s.params⟩ }

/-- R77: no step replaces the command in flight; it ends by its completion (log 1), by a soft reset, or (R129)
by a hardware reset. -/
def Obligations.OneCommandAtATime : Prop :=
  ∀ (s t : State) (f : InFlight), s.inflight = some f → step s = .next t →
    t.inflight = some f ∨
    (t.inflight = none ∧
      ((∃ rest, CompletionIsNext s rest) ∨
       (∃ v rest, HostWriteIsNext s 0x010 v rest ∧ v.getLsbD 1 = true) ∨
       ∃ rest, s.agenda = .hardReset :: rest))

/-! ### What each command does when it completes -/

/-- R84: NOP changes nothing but BUSY and DONE; it is the reset value of CMD, it starts with every parameter
register at 0, and a START right after reset leaves STATUS = 0x2 once it completes. -/
def Obligations.NopOnlySetsDone : Prop :=
  (∀ (s : State) (f : InFlight), s.inflight = some f →
    exec .nop s = .next { s with inflight := none, done := true }) ∧
  (∀ s : State, s.inflight = none → exec .nop s = .next { s with inflight := some ⟨s.cmd, s.params⟩ }) ∧
  decode State.reset.cmd = .ok .nop ∧
  (∀ rest : List Event, ∃ t,
    Host.Core.run Sys2Proof.core 2
      { State.reset with agenda := .hostWrite 0x010 1#32 :: .completion :: rest } = .next t ∧
    readReg .status t = 0x2#32)

/-- R89: SFREEZE leaves in FOUT the centered residue of the 64-bit number {FIN_HI, FIN_LO}. -/
def Obligations.SfreezeLeavesTheResidueInFout : Prop :=
  ∀ (s : State) (f : InFlight), s.inflight = some f → f.params.pm.toNat ≠ 0 →
    ∃ t, exec .sfreeze s = .next t ∧ CompletionFrame s t (fun _ => False) ∧
      t.fout.toInt = freeze f.params.pm.toNat (f.params.finHi.toInt * 2 ^ 32 + f.params.finLo.toNat) ∧
      t.wmask = s.wmask ∧ t.ovf = s.ovf

/-- R90: FREEZE leaves in each lane the centered residue of the source coefficient. -/
def Obligations.FreezeReducesEveryLane : Prop :=
  ∀ (d a : Nat) (s : State) (f : InFlight), s.inflight = some f → f.params.pm.toNat ≠ 0 →
    ∃ t, exec (.freeze d a) s = .next t ∧ CompletionFrame s t (LaneCell d f.params.pn.toNat) ∧
      (∀ i, i < f.params.pn.toNat → coeff t d i = freeze f.params.pm.toNat (coeff s a i)) ∧
      t.fout = s.fout ∧ t.wmask = s.wmask ∧ t.ovf = s.ovf

/-- R94, R92: ADD. `Int.bmod e 65536` is e wrapped to 16-bit two's complement. -/
def Obligations.AddNarrowsEveryLane : Prop :=
  ∀ (d a b : Nat) (r : Bool) (s : State) (f : InFlight), s.inflight = some f →
    (r = true → f.params.pm.toNat ≠ 0) →
    let e := fun i => coeff s a i + coeff s b i
    ∃ t, exec (.add d a b r) s = .next t ∧ CompletionFrame s t (LaneCell d f.params.pn.toNat) ∧
      (∀ i, i < f.params.pn.toNat →
        coeff t d i = if r = true then freeze f.params.pm.toNat (e i) else Int.bmod (e i) 65536) ∧
      (t.ovf = true ↔ s.ovf = true ∨
        (r = false ∧ ∃ i, i < f.params.pn.toNat ∧ (e i < -32768 ∨ 32767 < e i))) ∧
      t.fout = s.fout ∧ t.wmask = s.wmask

/-- R95, R92: SUB. -/
def Obligations.SubNarrowsEveryLane : Prop :=
  ∀ (d a b : Nat) (r : Bool) (s : State) (f : InFlight), s.inflight = some f →
    (r = true → f.params.pm.toNat ≠ 0) →
    let e := fun i => coeff s a i - coeff s b i
    ∃ t, exec (.sub d a b r) s = .next t ∧ CompletionFrame s t (LaneCell d f.params.pn.toNat) ∧
      (∀ i, i < f.params.pn.toNat →
        coeff t d i = if r = true then freeze f.params.pm.toNat (e i) else Int.bmod (e i) 65536) ∧
      (t.ovf = true ↔ s.ovf = true ∨
        (r = false ∧ ∃ i, i < f.params.pn.toNat ∧ (e i < -32768 ∨ 32767 < e i))) ∧
      t.fout = s.fout ∧ t.wmask = s.wmask

/-- R96, R92: SMUL. -/
def Obligations.SmulNarrowsEveryLane : Prop :=
  ∀ (d a : Nat) (r : Bool) (s : State) (f : InFlight), s.inflight = some f →
    (r = true → f.params.pm.toNat ≠ 0) →
    let e := fun i => f.params.scalar.toInt * coeff s a i
    ∃ t, exec (.smul d a r) s = .next t ∧ CompletionFrame s t (LaneCell d f.params.pn.toNat) ∧
      (∀ i, i < f.params.pn.toNat →
        coeff t d i = if r = true then freeze f.params.pm.toNat (e i) else Int.bmod (e i) 65536) ∧
      (t.ovf = true ↔ s.ovf = true ∨
        (r = false ∧ ∃ i, i < f.params.pn.toNat ∧ (e i < -32768 ∨ 32767 < e i))) ∧
      t.fout = s.fout ∧ t.wmask = s.wmask

/-- R98: MUL in closed form, with c the raw convolution; and for N ≥ 2 the result is the product in
Z_M[x]/(x^N - x - 1). -/
def Obligations.MulIsTheFoldedConvolution : Prop :=
  ∀ (d a b : Nat) (s : State) (f : InFlight), s.inflight = some f → 1 ≤ f.params.pn.toNat →
    f.params.pm.toNat ≠ 0 →
    let N := f.params.pn.toNat
    let c : Nat → Int := fun j =>
      ∑ i ∈ Finset.range N, if i ≤ j ∧ j - i < N then coeff s a i * coeff s b (j - i) else 0
    ∃ t, exec (.mul d a b) s = .next t ∧ CompletionFrame s t (LaneCell d N) ∧
      (∀ i, i < N →
        coeff t d i =
          freeze f.params.pm.toNat
            (c i + (if i + 2 ≤ N then c (N + i) else 0) + (if 1 ≤ i then c (N + i - 1) else 0))) ∧
      (2 ≤ N →
        let poly : (Nat → Int) → Polynomial (ZMod f.params.pm.toNat) := fun e =>
          ∑ i ∈ Finset.range N, Polynomial.monomial i ((e i : Int) : ZMod f.params.pm.toNat)
        Polynomial.X ^ N - Polynomial.X - 1 ∣ poly (coeff s a) * poly (coeff s b) - poly (coeff t d)) ∧
      t.fout = s.fout ∧ t.wmask = s.wmask ∧ t.ovf = s.ovf

/-- R102: the two outcomes of WCHECK, with the weight counted over the window L under the policy (R101); the vector
that replaces a failing candidate has weight W under either policy. -/
def Obligations.WcheckPassesOrReplacesTheCandidate : Prop :=
  ∀ (d a : Nat) (p : WeightPolicy) (s : State) (f : InFlight), s.inflight = some f →
    let N := f.params.pn.toNat
    let W := f.params.pw.toNat
    let L := if f.params.wlen.toNat = 0 then N else f.params.wlen.toNat
    let wt := ((List.range L).filter fun i =>
      if p = .nonzero then readCoeff s a i ≠ 0#16 else readCoeff s a i = 1#16).length
    ∃ t, exec (.wcheck d a p) s = .next t ∧ CompletionFrame s t (LaneCell d N) ∧
      (wt = W → t.wmask = 0x00000000#32 ∧ ∀ i, i < N → readCoeff t d i = readCoeff s a i) ∧
      (wt ≠ W → t.wmask = 0xFFFFFFFF#32 ∧
        (∀ i, i < N → readCoeff t d i = if i < W then 1#16 else 0#16) ∧
        (W ≤ N → ((List.range N).filter fun i => readCoeff t d i ≠ 0#16).length = W ∧
          ((List.range N).filter fun i => readCoeff t d i = 1#16).length = W)) ∧
      t.fout = s.fout ∧ t.ovf = s.ovf

/-- R105: TOP. `>>>` on integers floors, and `Int.bmod x 256` is x cut to 8 bits and read as signed. -/
def Obligations.TopRoundsEveryElement : Prop :=
  ∀ (d a : Nat) (s : State) (f : InFlight), s.inflight = some f →
    ∃ t, exec (.top d a) s = .next t ∧ CompletionFrame s t (LaneCell d f.params.pi.toNat) ∧
      (∀ i, i < f.params.pi.toNat →
        coeff t d i =
          Int.bmod ((f.params.tau1.toInt * (coeff s a i + f.params.tau0.toInt) + 16384) >>> (15 : Nat)) 256) ∧
      t.fout = s.fout ∧ t.wmask = s.wmask ∧ t.ovf = s.ovf

/-- R107: TOPENC. -/
def Obligations.TopencPacksNibblePairs : Prop :=
  ∀ (a : Nat) (s : State) (f : InFlight), s.inflight = some f →
    let I := f.params.pi.toNat
    let off := f.params.boff.toNat
    ∃ t, exec (.topenc a) s = .next t ∧ CompletionFrame s t (WindowCell off ((I + 1) / 2)) ∧
      (∀ j, j < (I + 1) / 2 →
        let t0 := (readCoeff s a (2 * j)).toNat % 256
        let t1 := if 2 * j + 1 < I then (readCoeff s a (2 * j + 1)).toNat % 256 else 0
        (readBuf t (off + j)).toNat = (t0 ||| t1 <<< 4) &&& 0xFF) ∧
      t.fout = s.fout ∧ t.wmask = s.wmask ∧ t.ovf = s.ovf

/-- R108: TOPDEC. -/
def Obligations.TopdecUnpacksNibblePairs : Prop :=
  ∀ (d : Nat) (s : State) (f : InFlight), s.inflight = some f →
    ∃ t, exec (.topdec d) s = .next t ∧ CompletionFrame s t (LaneCell d f.params.pi.toNat) ∧
      (∀ i, i < f.params.pi.toNat →
        let byte := (readBuf s (f.params.boff.toNat + i / 2)).toNat
        (readCoeff t d i).toNat = if i % 2 = 0 then byte % 16 else byte / 16) ∧
      t.fout = s.fout ∧ t.wmask = s.wmask ∧ t.ovf = s.ovf

/-- R110: INENC. -/
def Obligations.InencPacksOneBitPerCoefficient : Prop :=
  ∀ (a : Nat) (s : State) (f : InFlight), s.inflight = some f →
    let I := f.params.pi.toNat
    let off := f.params.boff.toNat
    ∃ t, exec (.inenc a) s = .next t ∧ CompletionFrame s t (WindowCell off ((I + 7) / 8)) ∧
      (∀ j k, j < (I + 7) / 8 → k < 8 →
        (readBuf t (off + j)).getLsbD k =
          if 8 * j + k < I then (readCoeff s a (8 * j + k)).getLsbD 0 else false) ∧
      t.fout = s.fout ∧ t.wmask = s.wmask ∧ t.ovf = s.ovf

/-- R111: INDEC. -/
def Obligations.IndecUnpacksOneBitPerCoefficient : Prop :=
  ∀ (d : Nat) (s : State) (f : InFlight), s.inflight = some f →
    ∃ t, exec (.indec d) s = .next t ∧ CompletionFrame s t (LaneCell d f.params.pi.toNat) ∧
      (∀ i, i < f.params.pi.toNat →
        (readCoeff t d i).toNat = ((readBuf s (f.params.boff.toNat + i / 8)).toNat >>> (i % 8)) % 2) ∧
      t.fout = s.fout ∧ t.wmask = s.wmask ∧ t.ovf = s.ovf

/-! ### Laws of the arithmetic -/

/-- R86: freeze_M(x) is the unique residue r with x ≡ r (mod M) and -M < 2r ≤ M. -/
def Obligations.FreezeIsTheUniqueCenteredResidue : Prop :=
  ∀ (M : Nat) (x r : Int), 1 ≤ M →
    (r = freeze M x ↔ (M : Int) ∣ x - r ∧ -(M : Int) < 2 * r ∧ 2 * r ≤ M)

/-- R87: the range of freeze_M. -/
def Obligations.FreezeRange : Prop :=
  ∀ (M : Nat) (x : Int), 1 ≤ M →
    (M % 2 = 1 → -(((M : Int) - 1) / 2) ≤ freeze M x ∧ freeze M x ≤ ((M : Int) - 1) / 2) ∧
    (M % 2 = 0 → -((M : Int) / 2) + 1 ≤ freeze M x ∧ freeze M x ≤ (M : Int) / 2) ∧
    (M ≤ 65535 → -32767 ≤ freeze M x ∧ freeze M x ≤ 32767)

/-- R88: the four laws of freeze_M. -/
def Obligations.FreezeLaws : Prop :=
  ∀ (M : Nat) (x y k : Int), 1 ≤ M →
    (M : Int) ∣ freeze M x - x ∧ freeze M (freeze M x) = freeze M x ∧ freeze M (x + k * M) = freeze M x ∧
    freeze M (x + y) = freeze M (freeze M x + y)

/-- R93 and the bound of R105, over the values the commands form: the lanes of ADD, SUB and SMUL, every accumulator of
the raw convolution of MUL at every moment, every fold target before its freeze, and the accumulator of TOP. All fit 64
bits, so exact integers are the 64-bit accumulator (log 11). -/
def Obligations.ExactValuesFitTheAccumulator : Prop :=
  (∀ (s : State) (a b i : Nat), -65536 ≤ addLane s a b i ∧ addLane s a b i ≤ 65534) ∧
  (∀ (s : State) (a b i : Nat), -65535 ≤ subLane s a b i ∧ subLane s a b i ≤ 65535) ∧
  (∀ (p : Params) (s : State) (a i : Nat), -(2 ^ 46) ≤ smulLane p s a i ∧ smulLane p s a i ≤ 2 ^ 46) ∧
  (∀ (s : State) (a b N m k j : Nat), N ≤ 2048 → m < N → k ≤ N →
    let A := coeff s a
    let B := coeff s b
    let c := convolveRow B (A m) m k (convolveRows A B N m (List.replicate (2 * N - 1) 0))
    |c.getD j 0| ≤ (N : Int) * 2 ^ 30 ∧ |c.getD j 0| ≤ 2 ^ 41 ∧
    |(rawConvolution A B N).getD j 0| ≤ (N : Int) * 2 ^ 30) ∧
  (∀ (s : State) (a b N M j : Nat), N ≤ 2048 → 1 ≤ M → M ≤ 65535 → j + 1 < N →
    let raw := rawConvolution (coeff s a) (coeff s b) N
    let c := foldDown M N (j + 1) (N - 2 - j) raw
    let v := c.getD (N + j) 0
    foldDown M N 0 (N - 1) raw = foldDown M N 0 j (foldPosition M N j c) ∧
    |foldSum j v c| ≤ 2 ^ 42 + 2 ^ 15 ∧ |foldSum (j + 1) v (foldInto M j v c)| ≤ 2 ^ 42 + 2 ^ 15) ∧
  (∀ (p : Params) (s : State) (a i : Nat),
    |topAcc p.tau0Int p.tau1Int (coeff s a i)| ≤ 2 ^ 62 + 2 ^ 46 + 2 ^ 14)

/-- R99: the laws of MUL for N ≥ 2. -/
def Obligations.MulLaws : Prop :=
  ∀ (d a b : Nat) (s : State) (f : InFlight), s.inflight = some f → 2 ≤ f.params.pn.toNat →
    f.params.pm.toNat ≠ 0 →
    let N := f.params.pn.toNat
    let M := f.params.pm.toNat
    ∃ t, exec (.mul d a b) s = .next t ∧
      exec (.mul d b a) s = .next t ∧
      ((∀ i, i < N → coeff s b i = if i = 0 then 1 else 0) →
        ∀ i, i < N → coeff t d i = freeze M (coeff s a i)) ∧
      ((∀ i, i < N → coeff s b i = if i = 1 then 1 else 0) →
        ∀ i, i < N → coeff t d i =
          freeze M (if i = 0 then coeff s a (N - 1)
            else if i = 1 then coeff s a 0 + coeff s a (N - 1) else coeff s a (i - 1))) ∧
      (∀ s' t' : State, s'.inflight = some f →
        (∀ i, i < N → (M : Int) ∣ coeff s a i - coeff s' a i ∧ (M : Int) ∣ coeff s b i - coeff s' b i) →
        exec (.mul d a b) s' = .next t' → ∀ i, i < N → coeff t' d i = coeff t d i)

/-- R103: a candidate of weight W passes unchanged, and WCHECK run again on its own output, with W ≤ L, gives
the same output. -/
def Obligations.WcheckIsIdempotent : Prop :=
  ∀ (d a e : Nat) (p : WeightPolicy) (s : State) (f : InFlight), s.inflight = some f →
    firstError s.build f.params (checks (.wcheck d a p)) = none →
    let N := f.params.pn.toNat
    let L := if f.params.wlen.toNat = 0 then N else f.params.wlen.toNat
    ∃ t, exec (.wcheck d a p) s = .next t ∧
      (t.wmask = 0x00000000#32 → ∀ i, i < N → readCoeff t d i = readCoeff s a i) ∧
      (t.wmask = 0x00000000#32 ∨ f.params.pw.toNat ≤ L →
        ∃ u, exec (.wcheck e d p) { t with inflight := some f } = .next u ∧
          u.wmask = 0x00000000#32 ∧ ∀ i, i < N → readCoeff u e i = readCoeff t d i)

/-- R106, and the corner cases of R105: with TAU0 = 2156 and TAU1 = 114 every input in -2296 .. 2296 gives 0 .. 15,
and the map is many-to-one there. -/
def Obligations.TopRangeOfTheFixtureConstants : Prop :=
  (∀ c : Int, -2296 ≤ c → c ≤ 2296 → 0 ≤ (topValue 2156 114 c).toInt ∧ (topValue 2156 114 c).toInt ≤ 15) ∧
  (∀ c c' : Int, -2296 ≤ c → c ≤ c' → c' ≤ 2296 → (topValue 2156 114 c).toInt ≤ (topValue 2156 114 c').toInt) ∧
  (∃ c c' : Int, -2295 ≤ c ∧ c < c' ∧ c' ≤ 2295 ∧ topValue 2156 114 c = topValue 2156 114 c')

/-- R109: TOPENC then TOPDEC, and TOPDEC then TOPENC, with the same I and BOFF. -/
def Obligations.NibbleRoundTrip : Prop :=
  ∀ (d a : Nat) (s : State) (f g : InFlight), s.inflight = some f → g.params.pi = f.params.pi →
    g.params.boff = f.params.boff →
    let I := f.params.pi.toNat
    let off := f.params.boff.toNat
    (∃ t u, exec (.topenc a) s = .next t ∧ exec (.topdec d) { t with inflight := some g } = .next u ∧
      ((∀ i, i < I → readCoeff u d i = readCoeff s a i) ↔ ∀ i, i < I → 0 ≤ coeff s a i ∧ coeff s a i ≤ 15) ∧
      (∀ i, i < I → (readCoeff u d i).toNat =
        if i % 2 = 0 then ((readCoeff s a i).toNat % 256) &&& 0xF
        else (((readCoeff s a (i - 1)).toNat % 256) >>> 4 ||| (readCoeff s a i).toNat % 256) &&& 0xF)) ∧
    (∃ t u, exec (.topdec d) s = .next t ∧ exec (.topenc d) { t with inflight := some g } = .next u ∧
      ∀ j, j < (I + 1) / 2 → (readBuf u (off + j)).toNat =
        if I % 2 = 1 ∧ j + 1 = (I + 1) / 2 then (readBuf s (off + j)).toNat % 16
        else (readBuf s (off + j)).toNat)

/-- R112: INENC then INDEC with the same I and BOFF returns bit 0 of every coefficient, so every 0/1 vector. -/
def Obligations.BitRoundTrip : Prop :=
  ∀ (d a : Nat) (s : State) (f g : InFlight), s.inflight = some f → g.params.pi = f.params.pi →
    g.params.boff = f.params.boff →
    ∃ t u, exec (.inenc a) s = .next t ∧ exec (.indec d) { t with inflight := some g } = .next u ∧
      (∀ i, i < f.params.pi.toNat → readCoeff u d i = readCoeff s a i &&& 1#16) ∧
      ((∀ i, i < f.params.pi.toNat → coeff s a i = 0 ∨ coeff s a i = 1) →
        ∀ i, i < f.params.pi.toNat → readCoeff u d i = readCoeff s a i)

/-- R73: the pseudo-instructions, as the runs of their expansions. WAIT reads STATUS until it finds BUSY = 0, RUN
starts a command and waits, and COPY, NEG, ZERO and R3RED leave what the spec says of them. `polls` is how many reads of a
WAIT find BUSY = 1 before the completion (log 20). -/
def Obligations.PseudoInstructionsOfTheAssembler : Prop :=
  (∀ (s : State) (ie : Bool) (polls : Nat) (rest : List Event), s.agenda = Pseudo.wait.expand ie polls ++ rest →
    (s.inflight = none → (readReg .status s).getLsbD 0 = false ∧
      step s = .next { s with agenda := rest, hostReads := readReg .status s :: s.hostReads }) ∧
    (∀ f i, s.inflight = some f → decode f.word = .ok i → (readReg .status s).getLsbD 0 = true ∧
      ∃ t, exec i { s with agenda := rest } = .next t ∧ (readReg .status t).getLsbD 0 = false ∧
        Host.Core.run Sys2Proof.core (polls + 2) s = .next { t with
          hostReads := readReg .status t :: (List.replicate polls (readReg .status s) ++ s.hostReads) })) ∧
  (∀ (s : State) (i : Instr) (ie : Bool) (polls : Nat) (rest : List Event), s.inflight = none →
    i.wellFormed = true → s.agenda = (Pseudo.run i).expand ie polls ++ rest →
    let u := { s with agenda := rest, cmd := encode i, ie := ie }
    let v := { u with inflight := some ⟨encode i, s.params⟩ }
    (∀ code, firstError s.build s.params (checks i) = some code →
      Host.Core.run Sys2Proof.core 3 s = .next { reject code u with
        hostReads := readReg .status (reject code u) :: s.hostReads }) ∧
    (firstError s.build s.params (checks i) = none →
      ∃ t, exec i v = .next t ∧ Host.Core.run Sys2Proof.core (polls + 4) s = .next { t with
        hostReads := readReg .status t :: (List.replicate polls (readReg .status v) ++ s.hostReads) })) ∧
  (∀ (s : State) (r : Reg) (v : Word) (ie : Bool) (polls : Nat) (rest : List Event),
    (s.agenda = (Pseudo.set r v).expand ie polls ++ rest → HostWriteIsNext s r.offset v rest) ∧
    (s.agenda = Pseudo.clrst.expand ie polls ++ rest →
      step s = .next { s with agenda := rest, done := false, err := false, errcode := .none, ovf := false })) ∧
  (∀ (s : State) (d a : Nat) (ie : Bool) (polls : Nat) (rest : List Event), s.inflight = none → s.build.Legal →
    let N := s.params.pn.toNat
    let ends := fun (i : Instr) (p : Params) (t : State) =>
      Host.Core.run Sys2Proof.core (polls + 5) s = .next t ∧
      CompletionFrame { s with agenda := rest, cmd := encode i, ie := ie, params := p, hostReads := t.hostReads } t
        (LaneCell d N) ∧ t.fout = s.fout ∧ t.wmask = s.wmask
    (s.agenda = (Pseudo.copy d a).expand ie polls ++ rest →
      firstError s.build s.params (checks (.smul d a false)) = none →
      ∃ t, ends (.smul d a false) { s.params with scalar := 1#32 } t ∧ t.ovf = s.ovf ∧
        ∀ i, i < N → readCoeff t d i = readCoeff s a i) ∧
    (s.agenda = (Pseudo.neg d a).expand ie polls ++ rest →
      firstError s.build s.params (checks (.smul d a false)) = none →
      ∃ t, ends (.smul d a false) { s.params with scalar := 0xFFFFFFFF#32 } t ∧
        (t.ovf = true ↔ s.ovf = true ∨ ∃ i, i < N ∧ coeff s a i = -32768) ∧
        ∀ i, i < N → coeff t d i = if coeff s a i = -32768 then -32768 else -coeff s a i) ∧
    (s.agenda = (Pseudo.zero d).expand ie polls ++ rest →
      firstError s.build s.params (checks (.smul d d false)) = none →
      ∃ t, ends (.smul d d false) { s.params with scalar := 0#32 } t ∧ t.ovf = s.ovf ∧
        ∀ i, i < N → readCoeff t d i = 0#16) ∧
    (s.agenda = (Pseudo.r3red d a).expand ie polls ++ rest →
      firstError s.build { s.params with pm := 3#16 } (checks (.freeze d a)) = none →
      ∃ t, ends (.freeze d a) { s.params with pm := 3#16 } t ∧ t.ovf = s.ovf ∧
        ∀ i, i < N → coeff t d i = freeze 3 (coeff s a i)))

/-! ### The host port -/

/-- R20, R21, R22: the identification and configuration registers, at any time; with them what the other read-only
registers return: ERRCODE (R26), FOUT (R37), WMASK (R38). -/
def Obligations.ReadOnlyRegisters : Prop :=
  (∀ (s : State) (rest : List Event),
    (HostReadIsNext s 0x000 rest →
      step s = .next { s with agenda := rest, hostReads := 0x4E540100#32 :: s.hostReads }) ∧
    (s.build.Legal → HostReadIsNext s 0x004 rest → ∃ w : Word,
      step s = .next { s with agenda := rest, hostReads := w :: s.hostReads } ∧
      (w.extractLsb' 0 16).toNat = s.build.nmax ∧ (w.extractLsb' 16 4).toNat = s.build.nbank ∧
      w.extractLsb' 20 12 = 0) ∧
    (s.build.Legal → HostReadIsNext s 0x008 rest → ∃ w : Word,
      step s = .next { s with agenda := rest, hostReads := w :: s.hostReads } ∧ w.toNat = s.build.bufsz) ∧
    (HostReadIsNext s 0x018 rest → ∃ w : Word,
      step s = .next { s with agenda := rest, hostReads := w :: s.hostReads } ∧
      w.extractLsb' 0 8 = s.errcode.number ∧ w.extractLsb' 8 24 = 0) ∧
    (HostReadIsNext s 0x04C rest →
      step s = .next { s with agenda := rest, hostReads := s.fout :: s.hostReads }) ∧
    (HostReadIsNext s 0x050 rest →
      step s = .next { s with agenda := rest, hostReads := s.wmask :: s.hostReads })) ∧
  readReg .cfg0 State.reset = 0x00080500#32 ∧ readReg .cfg1 State.reset = 0x00001000#32 ∧ ErrCode.none.number = 0x00#8

/-- R19: the register map. R18, R27 to R36: with no command in flight, a host write to an RW register at its offset sets
that field of the state and nothing else, and a read of it returns the bits its table lists. -/
def Obligations.RegistersReadBackWhatIsWritten : Prop :=
  (∀ (s : State) (v : Word) (rest : List Event), s.inflight = none →
    let p := s.params
    let half := v.extractLsb' 0 16
    let low := v &&& 0xFFFF#32
    let stores := fun (off : Nat) (u : State) (w : Word) =>
      s.agenda = .hostWrite off v :: .hostRead off :: rest →
        Host.Core.run Sys2Proof.core 2 s = .next { u with agenda := rest, hostReads := w :: s.hostReads }
    stores 0x01C { s with cmd := v } v ∧
    stores 0x020 { s with params := { p with pn := half } } low ∧
    stores 0x024 { s with params := { p with pm := half } } low ∧
    stores 0x028 { s with params := { p with pw := half } } low ∧
    stores 0x02C { s with params := { p with pi := half } } low ∧
    stores 0x030 { s with params := { p with tau0 := v } } v ∧
    stores 0x034 { s with params := { p with tau1 := v } } v ∧
    stores 0x038 { s with params := { p with scalar := v } } v ∧
    stores 0x03C { s with params := { p with boff := half } } low ∧
    stores 0x040 { s with params := { p with wlen := half } } low ∧
    stores 0x044 { s with params := { p with finLo := v } } v ∧
    stores 0x048 { s with params := { p with finHi := v } } v) ∧
  [Reg.id, .cfg0, .cfg1, .ctrl, .status, .errcode, .cmd, .pn, .pm, .pw, .pi, .tau0, .tau1, .scalar, .boff, .wlen, .finLo,
    .finHi, .fout, .wmask].map Reg.offset =
  [0x000, 0x004, 0x008, 0x010, 0x014, 0x018, 0x01C, 0x020, 0x024, 0x028, 0x02C, 0x030, 0x034, 0x038, 0x03C, 0x040, 0x044,
    0x048, 0x04C, 0x050]

/-- R23: the fields of CTRL. -/
def Obligations.ControlRegister : Prop :=
  ∀ (s : State) (v : Word) (rest : List Event),
    (HostWriteIsNext s 0x010 v rest → v.getLsbD 1 = true →
      step s = .next (softReset { s with agenda := rest })) ∧
    (HostWriteIsNext s 0x010 v rest → v.getLsbD 1 = false → v.getLsbD 0 = true → s.inflight = none →
      step s = startCommand { s with agenda := rest, ie := v.getLsbD 2 }) ∧
    (HostWriteIsNext s 0x010 v rest → v.getLsbD 1 = false → v.getLsbD 0 = false →
      step s = .next { s with agenda := rest, ie := v.getLsbD 2 }) ∧
    (HostReadIsNext s 0x010 rest →
      step s = .next { s with agenda := rest, hostReads := (if s.ie then 4#32 else 0#32) :: s.hostReads })

/-- R24: STATUS reads its four flags, and a host write clears DONE, ERR or OVF where it writes 1, and nothing else but
CODE with ERR. -/
def Obligations.StatusReadsAndClearsItsFlags : Prop :=
  ∀ (s : State) (v : Word) (rest : List Event),
    (HostReadIsNext s 0x014 rest → ∃ w : Word,
      step s = .next { s with agenda := rest, hostReads := w :: s.hostReads } ∧
      (w.getLsbD 0 = true ↔ s.inflight ≠ none) ∧ w.getLsbD 1 = s.done ∧ w.getLsbD 2 = s.err ∧ w.getLsbD 3 = s.ovf ∧
      w.extractLsb' 4 28 = 0) ∧
    (HostWriteIsNext s 0x014 v rest →
      step s = .next { s with
        agenda := rest
        done := if v.getLsbD 1 then false else s.done
        err := if v.getLsbD 2 then false else s.err
        errcode := if v.getLsbD 2 then .none else s.errcode
        ovf := if v.getLsbD 3 then false else s.ovf })

/-- R117: acknowledging an error clears ERR and CODE together, nothing but that and a reset clears ERR, and a later
error overwrites an earlier one. -/
def Obligations.ErrorAcknowledgeAndOverwrite : Prop :=
  (∀ (s : State) (v : Word) (rest : List Event), HostWriteIsNext s 0x014 v rest → v.getLsbD 2 = true →
    ∃ t, step s = .next t ∧ t.err = false ∧ readReg .errcode t = 0#32) ∧
  (∀ s t : State, step s = .next t → s.err = true → t.err = false →
    (∃ v rest, HostWriteIsNext s 0x014 v rest ∧ v.getLsbD 2 = true) ∨
    (∃ v rest, HostWriteIsNext s 0x010 v rest ∧ v.getLsbD 1 = true) ∨ ∃ rest, s.agenda = .hardReset :: rest) ∧
  (∀ (s : State) (i : Instr) (code : ErrCode), s.err = true → s.inflight = none →
    firstError s.build s.params (checks i) = some code →
    exec i s = .next { s with errcode := code, done := true }) ∧
  (∀ (s : State) (f : InFlight) (v : Word) (rest : List Event), s.err = true → s.inflight = some f →
    HostWriteIsNext s 0x020 v rest → step s = .next { s with agenda := rest, errcode := .busy })

/-- R50: a host read and a host write of a bank word, mapped or not. -/
def Obligations.BankWindow : Prop :=
  ∀ (s : State) (b i : Nat) (v : Word) (rest : List Event), b ≤ 7 → i ≤ 2047 → s.inflight = none →
    let off := 0x10000 + 0x2000 * b + 4 * i
    let mapped : Prop := b < s.build.nbank ∧ i < s.build.nmax
    (HostReadIsNext s off rest → ∃ w : Word,
      step s = .next { s with agenda := rest, hostReads := w :: s.hostReads } ∧
      (mapped → w = (readCoeff s b i).signExtend 32) ∧ (¬ mapped → w = 0#32)) ∧
    (HostWriteIsNext s off v rest → ∃ t,
      step s = .next t ∧ t = { s with agenda := rest, mem := t.mem } ∧
      (mapped → readCoeff t b i = v.extractLsb' 0 16 ∧
        ∀ x, x ≠ coeffAddr b i → x ≠ coeffAddr b i + 1 → readByte t x = readByte s x) ∧
      (¬ mapped → t.mem = s.mem))

/-- R51: a host read and a host write of a buffer word, mapped or not. -/
def Obligations.BufferWindow : Prop :=
  ∀ (s : State) (k : Nat) (v : Word) (rest : List Event), 4 * k ≤ 0xFFFC → s.inflight = none →
    (HostReadIsNext s (0x20000 + 4 * k) rest → ∃ w : Word,
      step s = .next { s with agenda := rest, hostReads := w :: s.hostReads } ∧
      (4 * k < s.build.bufsz → ∀ j, j < 4 → w.extractLsb' (8 * j) 8 = readBuf s (4 * k + j)) ∧
      (¬ 4 * k < s.build.bufsz → w = 0#32)) ∧
    (HostWriteIsNext s (0x20000 + 4 * k) v rest → ∃ t,
      step s = .next t ∧ t = { s with agenda := rest, mem := t.mem } ∧
      (4 * k < s.build.bufsz → (∀ j, j < 4 → readBuf t (4 * k + j) = v.extractLsb' (8 * j) 8) ∧
        ∀ x, (∀ j, j < 4 → x ≠ bufAddr (4 * k + j)) → readByte t x = readByte s x) ∧
      (¬ 4 * k < s.build.bufsz → t.mem = s.mem))

/-- R39, R49: the reserved offsets of the register space and the reserved region read 0 and ignore writes, busy or
not. -/
def Obligations.ReservedOffsetsReadZeroAndIgnoreWrites : Prop :=
  ∀ (s : State) (off : Nat) (v : Word) (rest : List Event), off % 4 = 0 →
    off = 0x00C ∨ (0x054 ≤ off ∧ off ≤ 0xFFFC) ∨ (0x30000 ≤ off ∧ off < 0x40000) →
    (HostReadIsNext s off rest → step s = .next { s with agenda := rest, hostReads := 0#32 :: s.hostReads }) ∧
    (HostWriteIsNext s off v rest → step s = .next { s with agenda := rest })

/-- R49: a host read inside the aperture changes nothing of the engine; with no command in flight it takes no free
value either, so it may be repeated with the same result. `hostReads` and `draws` are the model's own fields (log 14,
log 7). -/
def Obligations.HostReadsHaveNoSideEffect : Prop :=
  ∀ (s : State) (off : Nat) (rest : List Event), HostReadIsNext s off rest → off % 4 = 0 → off < 0x40000 →
    ∃ (w : Word) (k : Nat), step s = .next { s with agenda := rest, hostReads := w :: s.hostReads, draws := k } ∧
      (s.inflight = none → k = s.draws ∧
        ∀ (s' : State) (rest' : List Event), HostReadIsNext s' off rest' →
          s' = { s with agenda := s'.agenda, hostReads := s'.hostReads } →
          step s' = .next { s' with agenda := rest', hostReads := w :: s'.hostReads })

/-- R57: host writes while a command is in flight, row by row. That SRST = 1 with START = 1 is the soft reset only, and
records no error 0x09, is the model's reading of R23 and R130 against the START entry of R57 (log 21). -/
def Obligations.HostWritesWhileBusy : Prop :=
  ∀ (s : State) (f : InFlight) (off : Nat) (v : Word) (rest : List Event), s.inflight = some f →
    HostWriteIsNext s off v rest → off % 4 = 0 →
    (off = 0x010 → v.getLsbD 1 = true → step s = .next (softReset { s with agenda := rest })) ∧
    (off = 0x010 → v.getLsbD 1 = false → v.getLsbD 0 = true →
      step s = .next { s with agenda := rest, ie := v.getLsbD 2, err := true, errcode := .busy }) ∧
    (off = 0x010 → v.getLsbD 1 = false → v.getLsbD 0 = false →
      step s = .next { s with agenda := rest, ie := v.getLsbD 2 }) ∧
    (off = 0x014 → step s = .next (writeStatus v { s with agenda := rest })) ∧
    (0x01C ≤ off → off ≤ 0x048 → step s = .next { s with agenda := rest, err := true, errcode := .busy }) ∧
    (∀ b i, b ≤ 7 → i ≤ 2047 → off = 0x10000 + 0x2000 * b + 4 * i →
      step s = .next (if b < s.build.nbank ∧ i < s.build.nmax
        then { s with agenda := rest, err := true, errcode := .busy } else { s with agenda := rest })) ∧
    (∀ k, 4 * k ≤ 0xFFFC → off = 0x20000 + 4 * k →
      step s = .next (if 4 * k < s.build.bufsz
        then { s with agenda := rest, err := true, errcode := .busy } else { s with agenda := rest })) ∧
    (off ≤ 0x00C ∨ off = 0x018 ∨ (0x04C ≤ off ∧ off ≤ 0xFFFC) ∨ (0x30000 ≤ off ∧ off < 0x40000) →
      step s = .next { s with agenda := rest }) ∧
    ErrCode.busy.number = 0x09#8

/-- R58: host reads while a command is in flight. The word of a bank or buffer read is the free value of that read
(log 7), so the statement gives it no value. -/
def Obligations.HostReadsWhileBusy : Prop :=
  ∀ (s : State) (f : InFlight) (rest : List Event), s.inflight = some f →
    (∀ r : Reg, HostReadIsNext s r.offset rest →
      step s = .next { s with agenda := rest, hostReads := readReg r s :: s.hostReads }) ∧
    (∀ b i, b ≤ 7 → i ≤ 2047 → b < s.build.nbank → i < s.build.nmax →
      HostReadIsNext s (0x10000 + 0x2000 * b + 4 * i) rest →
      step s = .next { s with
        agenda := rest, hostReads := Config.busyReadWord s.draws :: s.hostReads, draws := s.draws + 1 }) ∧
    (∀ k, 4 * k ≤ 0xFFFC → 4 * k < s.build.bufsz → HostReadIsNext s (0x20000 + 4 * k) rest →
      step s = .next { s with
        agenda := rest, hostReads := Config.busyReadWord s.draws :: s.hostReads, draws := s.draws + 1 })

/-- R54, U2: any access but an aligned 32-bit one is refused, and (R48, log 9: the model's choice of a fault) an access
outside the aperture faults. -/
def Obligations.OnlyAlignedWordAccessesAreDefined : Prop :=
  ∀ (s : State) (off bits : Nat) (v : Word) (rest : List Event),
    (s.agenda = .hostOther bits off :: rest → step s = .refused .accessWidth) ∧
    (HostReadIsNext s off rest → off % 4 ≠ 0 → step s = .refused .accessMisaligned) ∧
    (HostWriteIsNext s off v rest → off % 4 ≠ 0 → step s = .refused .accessMisaligned) ∧
    (HostReadIsNext s off rest → off % 4 = 0 → 0x40000 ≤ off → step s = .fault .outsideAperture) ∧
    (HostWriteIsNext s off v rest → off % 4 = 0 → 0x40000 ≤ off → step s = .fault .outsideAperture)

/-- R120: IRQ is IE and DONE; every completion and every rejection sets DONE, whatever IE, so it raises IRQ when IE = 1;
writing 1 to STATUS.DONE lowers it; IE set later raises it at once while DONE = 1. -/
def Obligations.InterruptOutput : Prop :=
  (∀ s : State, s.irq = true ↔ s.ie = true ∧ s.done = true) ∧
  (∀ (i : Instr) (s : State) (f : InFlight), s.inflight = some f →
    ∃ t, exec i s = .next t ∧ t.done = true ∧ t.irq = s.ie) ∧
  (∀ s t : State, s.inflight = none → startCommand s = .next t → t.inflight = none →
    t.done = true ∧ t.irq = s.ie) ∧
  (∀ (s : State) (v : Word) (rest : List Event), HostWriteIsNext s 0x014 v rest → v.getLsbD 1 = true →
    ∃ t, step s = .next t ∧ t.irq = false) ∧
  (∀ (s : State) (v : Word) (rest : List Event), HostWriteIsNext s 0x010 v rest → v.getLsbD 0 = false →
    v.getLsbD 1 = false → ∃ t, step s = .next t ∧ t.done = s.done ∧ t.irq = (v.getLsbD 2 && s.done))

/-! ### Reset -/

/-- R47: the state after a hardware reset and after a soft reset. That an unspecified cell is the free value of its
epoch is the model's form of R42 (log 5). -/
def Obligations.ResetValues : Prop :=
  (∀ t : State,
    (t = State.reset ∨ (∃ s rest, s.agenda = .hardReset :: rest ∧ step s = .next t) ∨ ∃ s, t = softReset s) →
    readReg .id t = 0x4E540100#32 ∧ t.ie = false ∧ readReg .ctrl t = 0#32 ∧ readReg .status t = 0#32 ∧
    readReg .errcode t = 0#32 ∧ readReg .cmd t = 0#32 ∧ readReg .pn t = 0#32 ∧ readReg .pm t = 0#32 ∧
    readReg .pw t = 0#32 ∧ readReg .pi t = 0#32 ∧ readReg .tau0 t = 0#32 ∧ readReg .tau1 t = 0#32 ∧
    readReg .scalar t = 0#32 ∧ readReg .boff t = 0#32 ∧ readReg .wlen t = 0#32 ∧ readReg .finLo t = 0#32 ∧
    readReg .finHi t = 0#32 ∧ readReg .fout t = 0#32 ∧ readReg .wmask t = 0#32 ∧ t.inflight = none ∧
    t.irq = false) ∧
  (∀ (s : State) (rest : List Event), s.agenda = .hardReset :: rest →
    ∃ t, step s = .next t ∧ t.build = s.build ∧ ∀ x, readByte t x = Config.powerUpByte (s.epoch + 1) x) ∧
  (∀ s : State, s.inflight = none → (softReset s).build = s.build ∧ (softReset s).mem = s.mem)

/-- R130: a soft reset, busy or not. -/
def Obligations.SoftReset : Prop :=
  ∀ (s : State) (v : Word) (rest : List Event), HostWriteIsNext s 0x010 v rest → v.getLsbD 1 = true →
    ∃ t, step s = .next t ∧ t.ie = false ∧ t.done = false ∧ t.err = false ∧ t.ovf = false ∧ t.errcode = .none ∧
      t.cmd = 0#32 ∧ t.params = Params.reset ∧ t.fout = 0#32 ∧ t.wmask = 0#32 ∧ t.inflight = none ∧
      t.build = s.build ∧ t.agenda = rest ∧
      (s.inflight = none → ∀ x, readByte t x = readByte s x) ∧
      (∀ f i, s.inflight = some f → decode f.word = .ok i →
        let count := elementCount i f.params.public
        ∀ x, (∀ d, destBank i = some d → ¬ LaneCell d count x) →
          (∀ per, destWindow i = some per → ¬ WindowCell f.params.boff.toNat ((count + (per - 1)) / per) x) →
          readByte t x = readByte s x)

/-! ### The whole machine -/

/-- Every step keeps the invariant: legal sizes, canonical memory of existing cells, an accepted command in flight,
CODE = 0x00 exactly while ERR = 0, and the values WMASK and FOUT may hold. -/
def Obligations.EveryStepKeepsTheInvariant : Prop :=
  ∀ s t : State, s.Inv → step s = .next t → t.Inv

/-- The state after reset meets the invariant. -/
def Obligations.ResetMeetsTheInvariant : Prop := State.reset.Inv

/-- R74, R76, R116, R118, R139: a completion, a reset, or an aligned access inside the aperture always has a next
state, whatever the values it meets. With no event to come the step is a completion (log 1). -/
def Obligations.DefinedEventsNeverStopTheMachine : Prop :=
  ∀ s : State, s.Inv → (∀ e rest, s.agenda = e :: rest → e.Defined) → ∃ t, step s = .next t

/-- R41 and R43, with R129 and R130: the only events that change a coefficient, and the only ones that change a buffer
byte. A completion is the model's event (log 1, log 20). -/
def Obligations.CoefficientsAndBytesChangeOnlyByTheirWriters : Prop :=
  ∀ s t : State, s.Inv → step s = .next t →
    (∀ b i : Nat, b < s.build.nbank → i < s.build.nmax →
      readCoeff t b i = readCoeff s b i ∨
      (s.inflight = none ∧ ∃ v rest, HostWriteIsNext s (0x10000 + 0x2000 * b + 4 * i) v rest) ∨
      (∃ f c rest, s.inflight = some f ∧ CompletionIsNext s rest ∧ decode f.word = .ok c ∧ destBank c = some b ∧
        i < elementCount c f.params.public) ∨
      (∃ f c v rest, s.inflight = some f ∧ HostWriteIsNext s 0x010 v rest ∧ v.getLsbD 1 = true ∧
        decode f.word = .ok c ∧ destBank c = some b ∧ i < elementCount c f.params.public) ∨
      ∃ rest, s.agenda = .hardReset :: rest) ∧
    (∀ k : Nat, k < s.build.bufsz →
      let writes := fun (f : InFlight) (a nb : Nat) =>
        (decode f.word = .ok (.topenc a) ∧ nb = (f.params.pi.toNat + 1) / 2 ∨
          decode f.word = .ok (.inenc a) ∧ nb = (f.params.pi.toNat + 7) / 8) ∧
        f.params.boff.toNat ≤ k ∧ k < f.params.boff.toNat + nb
      readBuf t k = readBuf s k ∨
      (s.inflight = none ∧ ∃ v rest, HostWriteIsNext s (0x20000 + 4 * (k / 4)) v rest) ∨
      (∃ f a nb rest, s.inflight = some f ∧ CompletionIsNext s rest ∧ writes f a nb) ∨
      (∃ f a nb v rest, s.inflight = some f ∧ HostWriteIsNext s 0x010 v rest ∧ v.getLsbD 1 = true ∧ writes f a nb) ∨
      ∃ rest, s.agenda = .hardReset :: rest)

/-- R24: DONE, ERR and OVF are sticky under every command, and a command that is accepted or completes leaves ERR and
CODE as they were. -/
def Obligations.FlagsAreSticky : Prop :=
  ∀ (i : Instr) (s t : State), exec i s = .next t →
    (s.done = true → t.done = true) ∧ (s.err = true → t.err = true) ∧ (s.ovf = true → t.ovf = true) ∧
    (t.inflight ≠ none ∨ s.inflight ≠ none → t.err = s.err ∧ t.errcode = s.errcode)

/-- R25: no command's result, acceptance or rejection depends on DONE, ERR, OVF or CODE. -/
def Obligations.FlagsAreNeverRead : Prop :=
  ∀ (i : Instr) (s : State) (dn er ov : Bool) (code : ErrCode),
    ∃ t t', exec i s = .next t ∧
      exec i { s with done := dn, err := er, ovf := ov, errcode := code } = .next t' ∧
      t'.mem = t.mem ∧ t'.fout = t.fout ∧ t'.wmask = t.wmask ∧ t'.inflight = t.inflight ∧
      (t.inflight = none → t'.done = true ∧ t.done = true) ∧
      (s.inflight = none → t.inflight = none → t'.errcode = t.errcode ∧ t'.err = true ∧ t.err = true)

/-- R113: whether a START is rejected, and with which code, does not depend on any coefficient, buffer byte, TAU0,
TAU1, SCALAR or FIN. -/
def Obligations.ErrorsDoNotDependOnSecretValues : Prop :=
  ∀ s s' : State, s.inflight = none → s'.inflight = none → s'.build = s.build → s'.cmd = s.cmd →
    s'.params.pn = s.params.pn → s'.params.pm = s.params.pm → s'.params.pw = s.params.pw →
    s'.params.pi = s.params.pi → s'.params.boff = s.params.boff → s'.params.wlen = s.params.wlen →
    ∃ t t', startCommand s = .next t ∧ startCommand s' = .next t' ∧
      (t.inflight = none ↔ t'.inflight = none) ∧ (t.inflight = none → t'.errcode = t.errcode)

/-- R81 (its cells), R40, R104: a command reads no cell outside its source cells and writes none outside its
destination cells, both functions of the command and the public registers. -/
def Obligations.CommandsReadAndWriteOnlyPublicCells : Prop :=
  ∀ (i : Instr) (s s' : State) (f : InFlight), s.inflight = some f → s'.inflight = some f →
    firstError s.build f.params (checks i) = none →
    (∀ x, x ∈ sourceCells i f.params.public → readByte s' x = readByte s x) →
    s'.fout = s.fout → s'.wmask = s.wmask → s'.ovf = s.ovf →
    ∃ t t', exec i s = .next t ∧ exec i s' = .next t' ∧
      (∀ x, x ∉ destCells i f.params.public → readByte t x = readByte s x ∧ readByte t' x = readByte s' x) ∧
      (∀ x, x ∈ destCells i f.params.public → readByte t' x = readByte t x) ∧
      t'.fout = t.fout ∧ t'.wmask = t.wmask ∧ t'.ovf = t.ovf

/-- R119: a BUSY error during a command and that command's completion both take effect. -/
def Obligations.BusyErrorAndCompletionBothTakeEffect : Prop :=
  ∀ (s : State) (f : InFlight) (i : Instr) (v : Word) (rest : List Event), s.inflight = some f →
    decode f.word = .ok i → s.agenda = .hostWrite 0x020 v :: .completion :: rest →
    ∃ t, Host.Core.run Sys2Proof.core 2 s = .next t ∧ t.params = s.params ∧ t.inflight = none ∧ t.done = true ∧
      t.err = true ∧ t.errcode = .busy ∧
      exec i { s with agenda := rest, err := true, errcode := .busy } = .next t
end

