-- ==== Sys2Proof/Laws/State.lean ====
section
/-! SUPPORT. One lemma for each field and each update of the state, so that no later proof unfolds a record update. -/

namespace Sys2Proof.Machine

@[simp] theorem writeByte_build (a : Nat) (v : Byte) (s : State) : (writeByte a v s).build = s.build := rfl

@[simp] theorem writeByte_ie (a : Nat) (v : Byte) (s : State) : (writeByte a v s).ie = s.ie := rfl

@[simp] theorem writeByte_done (a : Nat) (v : Byte) (s : State) : (writeByte a v s).done = s.done := rfl

@[simp] theorem writeByte_err (a : Nat) (v : Byte) (s : State) : (writeByte a v s).err = s.err := rfl

@[simp] theorem writeByte_ovf (a : Nat) (v : Byte) (s : State) : (writeByte a v s).ovf = s.ovf := rfl

@[simp] theorem writeByte_errcode (a : Nat) (v : Byte) (s : State) : (writeByte a v s).errcode = s.errcode := rfl

@[simp] theorem writeByte_cmd (a : Nat) (v : Byte) (s : State) : (writeByte a v s).cmd = s.cmd := rfl

@[simp] theorem writeByte_params (a : Nat) (v : Byte) (s : State) : (writeByte a v s).params = s.params := rfl

@[simp] theorem writeByte_fout (a : Nat) (v : Byte) (s : State) : (writeByte a v s).fout = s.fout := rfl

@[simp] theorem writeByte_wmask (a : Nat) (v : Byte) (s : State) : (writeByte a v s).wmask = s.wmask := rfl

@[simp] theorem writeByte_mem (a : Nat) (v : Byte) (s : State) : (writeByte a v s).mem = s.mem.set a v := rfl

@[simp] theorem writeByte_inflight (a : Nat) (v : Byte) (s : State) : (writeByte a v s).inflight = s.inflight := rfl

@[simp] theorem writeByte_agenda (a : Nat) (v : Byte) (s : State) : (writeByte a v s).agenda = s.agenda := rfl

@[simp] theorem writeByte_hostReads (a : Nat) (v : Byte) (s : State) : (writeByte a v s).hostReads = s.hostReads := rfl

@[simp] theorem writeByte_epoch (a : Nat) (v : Byte) (s : State) : (writeByte a v s).epoch = s.epoch := rfl

@[simp] theorem writeByte_draws (a : Nat) (v : Byte) (s : State) : (writeByte a v s).draws = s.draws := rfl

@[simp] theorem writeCoeff_build (b i : Nat) (v : Half) (s : State) : (writeCoeff b i v s).build = s.build := rfl

@[simp] theorem writeCoeff_ie (b i : Nat) (v : Half) (s : State) : (writeCoeff b i v s).ie = s.ie := rfl

@[simp] theorem writeCoeff_done (b i : Nat) (v : Half) (s : State) : (writeCoeff b i v s).done = s.done := rfl

@[simp] theorem writeCoeff_err (b i : Nat) (v : Half) (s : State) : (writeCoeff b i v s).err = s.err := rfl

@[simp] theorem writeCoeff_ovf (b i : Nat) (v : Half) (s : State) : (writeCoeff b i v s).ovf = s.ovf := rfl

@[simp] theorem writeCoeff_errcode (b i : Nat) (v : Half) (s : State) : (writeCoeff b i v s).errcode = s.errcode := rfl

@[simp] theorem writeCoeff_cmd (b i : Nat) (v : Half) (s : State) : (writeCoeff b i v s).cmd = s.cmd := rfl

@[simp] theorem writeCoeff_params (b i : Nat) (v : Half) (s : State) : (writeCoeff b i v s).params = s.params := rfl

@[simp] theorem writeCoeff_fout (b i : Nat) (v : Half) (s : State) : (writeCoeff b i v s).fout = s.fout := rfl

@[simp] theorem writeCoeff_wmask (b i : Nat) (v : Half) (s : State) : (writeCoeff b i v s).wmask = s.wmask := rfl

@[simp] theorem writeCoeff_inflight (b i : Nat) (v : Half) (s : State) : (writeCoeff b i v s).inflight = s.inflight := rfl

@[simp] theorem writeCoeff_agenda (b i : Nat) (v : Half) (s : State) : (writeCoeff b i v s).agenda = s.agenda := rfl

@[simp] theorem writeCoeff_hostReads (b i : Nat) (v : Half) (s : State) : (writeCoeff b i v s).hostReads = s.hostReads := rfl

@[simp] theorem writeCoeff_epoch (b i : Nat) (v : Half) (s : State) : (writeCoeff b i v s).epoch = s.epoch := rfl

@[simp] theorem writeCoeff_draws (b i : Nat) (v : Half) (s : State) : (writeCoeff b i v s).draws = s.draws := rfl

@[simp] theorem writeBuf_build (o : Nat) (v : Byte) (s : State) : (writeBuf o v s).build = s.build := rfl

@[simp] theorem writeBuf_ie (o : Nat) (v : Byte) (s : State) : (writeBuf o v s).ie = s.ie := rfl

@[simp] theorem writeBuf_done (o : Nat) (v : Byte) (s : State) : (writeBuf o v s).done = s.done := rfl

@[simp] theorem writeBuf_err (o : Nat) (v : Byte) (s : State) : (writeBuf o v s).err = s.err := rfl

@[simp] theorem writeBuf_ovf (o : Nat) (v : Byte) (s : State) : (writeBuf o v s).ovf = s.ovf := rfl

@[simp] theorem writeBuf_errcode (o : Nat) (v : Byte) (s : State) : (writeBuf o v s).errcode = s.errcode := rfl

@[simp] theorem writeBuf_cmd (o : Nat) (v : Byte) (s : State) : (writeBuf o v s).cmd = s.cmd := rfl

@[simp] theorem writeBuf_params (o : Nat) (v : Byte) (s : State) : (writeBuf o v s).params = s.params := rfl

@[simp] theorem writeBuf_fout (o : Nat) (v : Byte) (s : State) : (writeBuf o v s).fout = s.fout := rfl

@[simp] theorem writeBuf_wmask (o : Nat) (v : Byte) (s : State) : (writeBuf o v s).wmask = s.wmask := rfl

@[simp] theorem writeBuf_mem (o : Nat) (v : Byte) (s : State) : (writeBuf o v s).mem = s.mem.set (bufAddr o) v := rfl

@[simp] theorem writeBuf_inflight (o : Nat) (v : Byte) (s : State) : (writeBuf o v s).inflight = s.inflight := rfl

@[simp] theorem writeBuf_agenda (o : Nat) (v : Byte) (s : State) : (writeBuf o v s).agenda = s.agenda := rfl

@[simp] theorem writeBuf_hostReads (o : Nat) (v : Byte) (s : State) : (writeBuf o v s).hostReads = s.hostReads := rfl

@[simp] theorem writeBuf_epoch (o : Nat) (v : Byte) (s : State) : (writeBuf o v s).epoch = s.epoch := rfl

@[simp] theorem writeBuf_draws (o : Nat) (v : Byte) (s : State) : (writeBuf o v s).draws = s.draws := rfl

@[simp] theorem reject_build (c : ErrCode) (s : State) : (reject c s).build = s.build := rfl

@[simp] theorem reject_ie (c : ErrCode) (s : State) : (reject c s).ie = s.ie := rfl

@[simp] theorem reject_done (c : ErrCode) (s : State) : (reject c s).done = true := rfl

@[simp] theorem reject_err (c : ErrCode) (s : State) : (reject c s).err = true := rfl

@[simp] theorem reject_ovf (c : ErrCode) (s : State) : (reject c s).ovf = s.ovf := rfl

@[simp] theorem reject_errcode (c : ErrCode) (s : State) : (reject c s).errcode = c := rfl

@[simp] theorem reject_cmd (c : ErrCode) (s : State) : (reject c s).cmd = s.cmd := rfl

@[simp] theorem reject_params (c : ErrCode) (s : State) : (reject c s).params = s.params := rfl

@[simp] theorem reject_fout (c : ErrCode) (s : State) : (reject c s).fout = s.fout := rfl

@[simp] theorem reject_wmask (c : ErrCode) (s : State) : (reject c s).wmask = s.wmask := rfl

@[simp] theorem reject_mem (c : ErrCode) (s : State) : (reject c s).mem = s.mem := rfl

@[simp] theorem reject_inflight (c : ErrCode) (s : State) : (reject c s).inflight = s.inflight := rfl

@[simp] theorem reject_agenda (c : ErrCode) (s : State) : (reject c s).agenda = s.agenda := rfl

@[simp] theorem reject_hostReads (c : ErrCode) (s : State) : (reject c s).hostReads = s.hostReads := rfl

@[simp] theorem reject_epoch (c : ErrCode) (s : State) : (reject c s).epoch = s.epoch := rfl

@[simp] theorem reject_draws (c : ErrCode) (s : State) : (reject c s).draws = s.draws := rfl

@[simp] theorem acknowledge_build (s : State) : (acknowledge s).build = s.build := rfl

@[simp] theorem acknowledge_ie (s : State) : (acknowledge s).ie = s.ie := rfl

@[simp] theorem acknowledge_done (s : State) : (acknowledge s).done = s.done := rfl

@[simp] theorem acknowledge_err (s : State) : (acknowledge s).err = false := rfl

@[simp] theorem acknowledge_ovf (s : State) : (acknowledge s).ovf = s.ovf := rfl

@[simp] theorem acknowledge_errcode (s : State) : (acknowledge s).errcode = .none := rfl

@[simp] theorem acknowledge_cmd (s : State) : (acknowledge s).cmd = s.cmd := rfl

@[simp] theorem acknowledge_params (s : State) : (acknowledge s).params = s.params := rfl

@[simp] theorem acknowledge_fout (s : State) : (acknowledge s).fout = s.fout := rfl

@[simp] theorem acknowledge_wmask (s : State) : (acknowledge s).wmask = s.wmask := rfl

@[simp] theorem acknowledge_mem (s : State) : (acknowledge s).mem = s.mem := rfl

@[simp] theorem acknowledge_inflight (s : State) : (acknowledge s).inflight = s.inflight := rfl

@[simp] theorem acknowledge_agenda (s : State) : (acknowledge s).agenda = s.agenda := rfl

@[simp] theorem acknowledge_hostReads (s : State) : (acknowledge s).hostReads = s.hostReads := rfl

@[simp] theorem acknowledge_epoch (s : State) : (acknowledge s).epoch = s.epoch := rfl

@[simp] theorem acknowledge_draws (s : State) : (acknowledge s).draws = s.draws := rfl

@[simp] theorem busyError_build (s : State) : (busyError s).build = s.build := rfl

@[simp] theorem busyError_ie (s : State) : (busyError s).ie = s.ie := rfl

@[simp] theorem busyError_done (s : State) : (busyError s).done = s.done := rfl

@[simp] theorem busyError_err (s : State) : (busyError s).err = true := rfl

@[simp] theorem busyError_ovf (s : State) : (busyError s).ovf = s.ovf := rfl

@[simp] theorem busyError_errcode (s : State) : (busyError s).errcode = .busy := rfl

@[simp] theorem busyError_cmd (s : State) : (busyError s).cmd = s.cmd := rfl

@[simp] theorem busyError_params (s : State) : (busyError s).params = s.params := rfl

@[simp] theorem busyError_fout (s : State) : (busyError s).fout = s.fout := rfl

@[simp] theorem busyError_wmask (s : State) : (busyError s).wmask = s.wmask := rfl

@[simp] theorem busyError_mem (s : State) : (busyError s).mem = s.mem := rfl

@[simp] theorem busyError_inflight (s : State) : (busyError s).inflight = s.inflight := rfl

@[simp] theorem busyError_agenda (s : State) : (busyError s).agenda = s.agenda := rfl

@[simp] theorem busyError_hostReads (s : State) : (busyError s).hostReads = s.hostReads := rfl

@[simp] theorem busyError_epoch (s : State) : (busyError s).epoch = s.epoch := rfl

@[simp] theorem busyError_draws (s : State) : (busyError s).draws = s.draws := rfl

@[simp] theorem accept_build (s : State) : (accept s).build = s.build := rfl

@[simp] theorem accept_ie (s : State) : (accept s).ie = s.ie := rfl

@[simp] theorem accept_done (s : State) : (accept s).done = s.done := rfl

@[simp] theorem accept_err (s : State) : (accept s).err = s.err := rfl

@[simp] theorem accept_ovf (s : State) : (accept s).ovf = s.ovf := rfl

@[simp] theorem accept_errcode (s : State) : (accept s).errcode = s.errcode := rfl

@[simp] theorem accept_cmd (s : State) : (accept s).cmd = s.cmd := rfl

@[simp] theorem accept_params (s : State) : (accept s).params = s.params := rfl

@[simp] theorem accept_fout (s : State) : (accept s).fout = s.fout := rfl

@[simp] theorem accept_wmask (s : State) : (accept s).wmask = s.wmask := rfl

@[simp] theorem accept_mem (s : State) : (accept s).mem = s.mem := rfl

@[simp] theorem accept_inflight (s : State) : (accept s).inflight = some ⟨s.cmd, s.params⟩ := rfl

@[simp] theorem accept_agenda (s : State) : (accept s).agenda = s.agenda := rfl

@[simp] theorem accept_hostReads (s : State) : (accept s).hostReads = s.hostReads := rfl

@[simp] theorem accept_epoch (s : State) : (accept s).epoch = s.epoch := rfl

@[simp] theorem accept_draws (s : State) : (accept s).draws = s.draws := rfl

@[simp] theorem finish_build (s : State) : (finish s).build = s.build := rfl

@[simp] theorem finish_ie (s : State) : (finish s).ie = s.ie := rfl

@[simp] theorem finish_done (s : State) : (finish s).done = true := rfl

@[simp] theorem finish_err (s : State) : (finish s).err = s.err := rfl

@[simp] theorem finish_ovf (s : State) : (finish s).ovf = s.ovf := rfl

@[simp] theorem finish_errcode (s : State) : (finish s).errcode = s.errcode := rfl

@[simp] theorem finish_cmd (s : State) : (finish s).cmd = s.cmd := rfl

@[simp] theorem finish_params (s : State) : (finish s).params = s.params := rfl

@[simp] theorem finish_fout (s : State) : (finish s).fout = s.fout := rfl

@[simp] theorem finish_wmask (s : State) : (finish s).wmask = s.wmask := rfl

@[simp] theorem finish_mem (s : State) : (finish s).mem = s.mem := rfl

@[simp] theorem finish_inflight (s : State) : (finish s).inflight = none := rfl

@[simp] theorem finish_agenda (s : State) : (finish s).agenda = s.agenda := rfl

@[simp] theorem finish_hostReads (s : State) : (finish s).hostReads = s.hostReads := rfl

@[simp] theorem finish_epoch (s : State) : (finish s).epoch = s.epoch := rfl

@[simp] theorem finish_draws (s : State) : (finish s).draws = s.draws := rfl

@[simp] theorem resetRegisters_build (s : State) : (resetRegisters s).build = s.build := rfl

@[simp] theorem resetRegisters_ie (s : State) : (resetRegisters s).ie = false := rfl

@[simp] theorem resetRegisters_done (s : State) : (resetRegisters s).done = false := rfl

@[simp] theorem resetRegisters_err (s : State) : (resetRegisters s).err = false := rfl

@[simp] theorem resetRegisters_ovf (s : State) : (resetRegisters s).ovf = false := rfl

@[simp] theorem resetRegisters_errcode (s : State) : (resetRegisters s).errcode = .none := rfl

@[simp] theorem resetRegisters_cmd (s : State) : (resetRegisters s).cmd = 0 := rfl

@[simp] theorem resetRegisters_params (s : State) : (resetRegisters s).params = Params.reset := rfl

@[simp] theorem resetRegisters_fout (s : State) : (resetRegisters s).fout = 0 := rfl

@[simp] theorem resetRegisters_wmask (s : State) : (resetRegisters s).wmask = 0 := rfl

@[simp] theorem resetRegisters_mem (s : State) : (resetRegisters s).mem = s.mem := rfl

@[simp] theorem resetRegisters_inflight (s : State) : (resetRegisters s).inflight = none := rfl

@[simp] theorem resetRegisters_agenda (s : State) : (resetRegisters s).agenda = s.agenda := rfl

@[simp] theorem resetRegisters_hostReads (s : State) : (resetRegisters s).hostReads = s.hostReads := rfl

@[simp] theorem resetRegisters_epoch (s : State) : (resetRegisters s).epoch = s.epoch := rfl

@[simp] theorem resetRegisters_draws (s : State) : (resetRegisters s).draws = s.draws := rfl

@[simp] theorem hardReset_build (s : State) : (hardReset s).build = s.build := rfl

@[simp] theorem hardReset_ie (s : State) : (hardReset s).ie = false := rfl

@[simp] theorem hardReset_done (s : State) : (hardReset s).done = false := rfl

@[simp] theorem hardReset_err (s : State) : (hardReset s).err = false := rfl

@[simp] theorem hardReset_ovf (s : State) : (hardReset s).ovf = false := rfl

@[simp] theorem hardReset_errcode (s : State) : (hardReset s).errcode = .none := rfl

@[simp] theorem hardReset_cmd (s : State) : (hardReset s).cmd = 0 := rfl

@[simp] theorem hardReset_params (s : State) : (hardReset s).params = Params.reset := rfl

@[simp] theorem hardReset_fout (s : State) : (hardReset s).fout = 0 := rfl

@[simp] theorem hardReset_wmask (s : State) : (hardReset s).wmask = 0 := rfl

@[simp] theorem hardReset_mem (s : State) : (hardReset s).mem = [] := rfl

@[simp] theorem hardReset_inflight (s : State) : (hardReset s).inflight = none := rfl

@[simp] theorem hardReset_agenda (s : State) : (hardReset s).agenda = s.agenda := rfl

@[simp] theorem hardReset_hostReads (s : State) : (hardReset s).hostReads = s.hostReads := rfl

@[simp] theorem hardReset_epoch (s : State) : (hardReset s).epoch = s.epoch + 1 := rfl

@[simp] theorem hardReset_draws (s : State) : (hardReset s).draws = s.draws := rfl

@[simp] theorem answer_build (w : Word) (s : State) : (answer w s).build = s.build := rfl

@[simp] theorem answer_ie (w : Word) (s : State) : (answer w s).ie = s.ie := rfl

@[simp] theorem answer_done (w : Word) (s : State) : (answer w s).done = s.done := rfl

@[simp] theorem answer_err (w : Word) (s : State) : (answer w s).err = s.err := rfl

@[simp] theorem answer_ovf (w : Word) (s : State) : (answer w s).ovf = s.ovf := rfl

@[simp] theorem answer_errcode (w : Word) (s : State) : (answer w s).errcode = s.errcode := rfl

@[simp] theorem answer_cmd (w : Word) (s : State) : (answer w s).cmd = s.cmd := rfl

@[simp] theorem answer_params (w : Word) (s : State) : (answer w s).params = s.params := rfl

@[simp] theorem answer_fout (w : Word) (s : State) : (answer w s).fout = s.fout := rfl

@[simp] theorem answer_wmask (w : Word) (s : State) : (answer w s).wmask = s.wmask := rfl

@[simp] theorem answer_mem (w : Word) (s : State) : (answer w s).mem = s.mem := rfl

@[simp] theorem answer_inflight (w : Word) (s : State) : (answer w s).inflight = s.inflight := rfl

@[simp] theorem answer_agenda (w : Word) (s : State) : (answer w s).agenda = s.agenda := rfl

@[simp] theorem answer_hostReads (w : Word) (s : State) : (answer w s).hostReads = w :: s.hostReads := rfl

@[simp] theorem answer_epoch (w : Word) (s : State) : (answer w s).epoch = s.epoch := rfl

@[simp] theorem answer_draws (w : Word) (s : State) : (answer w s).draws = s.draws := rfl

@[simp] theorem answerBusy_build (s : State) : (answerBusy s).build = s.build := rfl

@[simp] theorem answerBusy_ie (s : State) : (answerBusy s).ie = s.ie := rfl

@[simp] theorem answerBusy_done (s : State) : (answerBusy s).done = s.done := rfl

@[simp] theorem answerBusy_err (s : State) : (answerBusy s).err = s.err := rfl

@[simp] theorem answerBusy_ovf (s : State) : (answerBusy s).ovf = s.ovf := rfl

@[simp] theorem answerBusy_errcode (s : State) : (answerBusy s).errcode = s.errcode := rfl

@[simp] theorem answerBusy_cmd (s : State) : (answerBusy s).cmd = s.cmd := rfl

@[simp] theorem answerBusy_params (s : State) : (answerBusy s).params = s.params := rfl

@[simp] theorem answerBusy_fout (s : State) : (answerBusy s).fout = s.fout := rfl

@[simp] theorem answerBusy_wmask (s : State) : (answerBusy s).wmask = s.wmask := rfl

@[simp] theorem answerBusy_mem (s : State) : (answerBusy s).mem = s.mem := rfl

@[simp] theorem answerBusy_inflight (s : State) : (answerBusy s).inflight = s.inflight := rfl

@[simp] theorem answerBusy_agenda (s : State) : (answerBusy s).agenda = s.agenda := rfl

@[simp] theorem answerBusy_hostReads (s : State) : (answerBusy s).hostReads = Config.busyReadWord s.draws :: s.hostReads := rfl

@[simp] theorem answerBusy_epoch (s : State) : (answerBusy s).epoch = s.epoch := rfl

@[simp] theorem answerBusy_draws (s : State) : (answerBusy s).draws = s.draws + 1 := rfl

@[simp] theorem writeCoeffs_build (b : Nat) (v : Nat → Half) (n : Nat) (s : State) : (writeCoeffs b v n s).build = s.build := by
  induction n with
  | zero => rfl
  | succ n ih => simp [writeCoeffs, ih]

@[simp] theorem writeCoeffs_ie (b : Nat) (v : Nat → Half) (n : Nat) (s : State) : (writeCoeffs b v n s).ie = s.ie := by
  induction n with
  | zero => rfl
  | succ n ih => simp [writeCoeffs, ih]

@[simp] theorem writeCoeffs_done (b : Nat) (v : Nat → Half) (n : Nat) (s : State) : (writeCoeffs b v n s).done = s.done := by
  induction n with
  | zero => rfl
  | succ n ih => simp [writeCoeffs, ih]

@[simp] theorem writeCoeffs_err (b : Nat) (v : Nat → Half) (n : Nat) (s : State) : (writeCoeffs b v n s).err = s.err := by
  induction n with
  | zero => rfl
  | succ n ih => simp [writeCoeffs, ih]

@[simp] theorem writeCoeffs_ovf (b : Nat) (v : Nat → Half) (n : Nat) (s : State) : (writeCoeffs b v n s).ovf = s.ovf := by
  induction n with
  | zero => rfl
  | succ n ih => simp [writeCoeffs, ih]

@[simp] theorem writeCoeffs_errcode (b : Nat) (v : Nat → Half) (n : Nat) (s : State) : (writeCoeffs b v n s).errcode = s.errcode := by
  induction n with
  | zero => rfl
  | succ n ih => simp [writeCoeffs, ih]

@[simp] theorem writeCoeffs_cmd (b : Nat) (v : Nat → Half) (n : Nat) (s : State) : (writeCoeffs b v n s).cmd = s.cmd := by
  induction n with
  | zero => rfl
  | succ n ih => simp [writeCoeffs, ih]

@[simp] theorem writeCoeffs_params (b : Nat) (v : Nat → Half) (n : Nat) (s : State) : (writeCoeffs b v n s).params = s.params := by
  induction n with
  | zero => rfl
  | succ n ih => simp [writeCoeffs, ih]

@[simp] theorem writeCoeffs_fout (b : Nat) (v : Nat → Half) (n : Nat) (s : State) : (writeCoeffs b v n s).fout = s.fout := by
  induction n with
  | zero => rfl
  | succ n ih => simp [writeCoeffs, ih]

@[simp] theorem writeCoeffs_wmask (b : Nat) (v : Nat → Half) (n : Nat) (s : State) : (writeCoeffs b v n s).wmask = s.wmask := by
  induction n with
  | zero => rfl
  | succ n ih => simp [writeCoeffs, ih]

@[simp] theorem writeCoeffs_inflight (b : Nat) (v : Nat → Half) (n : Nat) (s : State) : (writeCoeffs b v n s).inflight = s.inflight := by
  induction n with
  | zero => rfl
  | succ n ih => simp [writeCoeffs, ih]

@[simp] theorem writeCoeffs_agenda (b : Nat) (v : Nat → Half) (n : Nat) (s : State) : (writeCoeffs b v n s).agenda = s.agenda := by
  induction n with
  | zero => rfl
  | succ n ih => simp [writeCoeffs, ih]

@[simp] theorem writeCoeffs_hostReads (b : Nat) (v : Nat → Half) (n : Nat) (s : State) : (writeCoeffs b v n s).hostReads = s.hostReads := by
  induction n with
  | zero => rfl
  | succ n ih => simp [writeCoeffs, ih]

@[simp] theorem writeCoeffs_epoch (b : Nat) (v : Nat → Half) (n : Nat) (s : State) : (writeCoeffs b v n s).epoch = s.epoch := by
  induction n with
  | zero => rfl
  | succ n ih => simp [writeCoeffs, ih]

@[simp] theorem writeCoeffs_draws (b : Nat) (v : Nat → Half) (n : Nat) (s : State) : (writeCoeffs b v n s).draws = s.draws := by
  induction n with
  | zero => rfl
  | succ n ih => simp [writeCoeffs, ih]

@[simp] theorem writeBufs_build (off : Nat) (v : Nat → Byte) (n : Nat) (s : State) : (writeBufs off v n s).build = s.build := by
  induction n with
  | zero => rfl
  | succ n ih => simp [writeBufs, ih]

@[simp] theorem writeBufs_ie (off : Nat) (v : Nat → Byte) (n : Nat) (s : State) : (writeBufs off v n s).ie = s.ie := by
  induction n with
  | zero => rfl
  | succ n ih => simp [writeBufs, ih]

@[simp] theorem writeBufs_done (off : Nat) (v : Nat → Byte) (n : Nat) (s : State) : (writeBufs off v n s).done = s.done := by
  induction n with
  | zero => rfl
  | succ n ih => simp [writeBufs, ih]

@[simp] theorem writeBufs_err (off : Nat) (v : Nat → Byte) (n : Nat) (s : State) : (writeBufs off v n s).err = s.err := by
  induction n with
  | zero => rfl
  | succ n ih => simp [writeBufs, ih]

@[simp] theorem writeBufs_ovf (off : Nat) (v : Nat → Byte) (n : Nat) (s : State) : (writeBufs off v n s).ovf = s.ovf := by
  induction n with
  | zero => rfl
  | succ n ih => simp [writeBufs, ih]

@[simp] theorem writeBufs_errcode (off : Nat) (v : Nat → Byte) (n : Nat) (s : State) : (writeBufs off v n s).errcode = s.errcode := by
  induction n with
  | zero => rfl
  | succ n ih => simp [writeBufs, ih]

@[simp] theorem writeBufs_cmd (off : Nat) (v : Nat → Byte) (n : Nat) (s : State) : (writeBufs off v n s).cmd = s.cmd := by
  induction n with
  | zero => rfl
  | succ n ih => simp [writeBufs, ih]

@[simp] theorem writeBufs_params (off : Nat) (v : Nat → Byte) (n : Nat) (s : State) : (writeBufs off v n s).params = s.params := by
  induction n with
  | zero => rfl
  | succ n ih => simp [writeBufs, ih]

@[simp] theorem writeBufs_fout (off : Nat) (v : Nat → Byte) (n : Nat) (s : State) : (writeBufs off v n s).fout = s.fout := by
  induction n with
  | zero => rfl
  | succ n ih => simp [writeBufs, ih]

@[simp] theorem writeBufs_wmask (off : Nat) (v : Nat → Byte) (n : Nat) (s : State) : (writeBufs off v n s).wmask = s.wmask := by
  induction n with
  | zero => rfl
  | succ n ih => simp [writeBufs, ih]

@[simp] theorem writeBufs_inflight (off : Nat) (v : Nat → Byte) (n : Nat) (s : State) : (writeBufs off v n s).inflight = s.inflight := by
  induction n with
  | zero => rfl
  | succ n ih => simp [writeBufs, ih]

@[simp] theorem writeBufs_agenda (off : Nat) (v : Nat → Byte) (n : Nat) (s : State) : (writeBufs off v n s).agenda = s.agenda := by
  induction n with
  | zero => rfl
  | succ n ih => simp [writeBufs, ih]

@[simp] theorem writeBufs_hostReads (off : Nat) (v : Nat → Byte) (n : Nat) (s : State) : (writeBufs off v n s).hostReads = s.hostReads := by
  induction n with
  | zero => rfl
  | succ n ih => simp [writeBufs, ih]

@[simp] theorem writeBufs_epoch (off : Nat) (v : Nat → Byte) (n : Nat) (s : State) : (writeBufs off v n s).epoch = s.epoch := by
  induction n with
  | zero => rfl
  | succ n ih => simp [writeBufs, ih]

@[simp] theorem writeBufs_draws (off : Nat) (v : Nat → Byte) (n : Nat) (s : State) : (writeBufs off v n s).draws = s.draws := by
  induction n with
  | zero => rfl
  | succ n ih => simp [writeBufs, ih]

@[simp] theorem scramble_build (draw : Nat) (cells : List Nat) (s : State) : (scramble draw cells s).build = s.build := by
  induction cells generalizing s with
  | nil => rfl
  | cons a rest ih => simp [scramble, ih]

@[simp] theorem scramble_ie (draw : Nat) (cells : List Nat) (s : State) : (scramble draw cells s).ie = s.ie := by
  induction cells generalizing s with
  | nil => rfl
  | cons a rest ih => simp [scramble, ih]

@[simp] theorem scramble_done (draw : Nat) (cells : List Nat) (s : State) : (scramble draw cells s).done = s.done := by
  induction cells generalizing s with
  | nil => rfl
  | cons a rest ih => simp [scramble, ih]

@[simp] theorem scramble_err (draw : Nat) (cells : List Nat) (s : State) : (scramble draw cells s).err = s.err := by
  induction cells generalizing s with
  | nil => rfl
  | cons a rest ih => simp [scramble, ih]

@[simp] theorem scramble_ovf (draw : Nat) (cells : List Nat) (s : State) : (scramble draw cells s).ovf = s.ovf := by
  induction cells generalizing s with
  | nil => rfl
  | cons a rest ih => simp [scramble, ih]

@[simp] theorem scramble_errcode (draw : Nat) (cells : List Nat) (s : State) : (scramble draw cells s).errcode = s.errcode := by
  induction cells generalizing s with
  | nil => rfl
  | cons a rest ih => simp [scramble, ih]

@[simp] theorem scramble_cmd (draw : Nat) (cells : List Nat) (s : State) : (scramble draw cells s).cmd = s.cmd := by
  induction cells generalizing s with
  | nil => rfl
  | cons a rest ih => simp [scramble, ih]

@[simp] theorem scramble_params (draw : Nat) (cells : List Nat) (s : State) : (scramble draw cells s).params = s.params := by
  induction cells generalizing s with
  | nil => rfl
  | cons a rest ih => simp [scramble, ih]

@[simp] theorem scramble_fout (draw : Nat) (cells : List Nat) (s : State) : (scramble draw cells s).fout = s.fout := by
  induction cells generalizing s with
  | nil => rfl
  | cons a rest ih => simp [scramble, ih]

@[simp] theorem scramble_wmask (draw : Nat) (cells : List Nat) (s : State) : (scramble draw cells s).wmask = s.wmask := by
  induction cells generalizing s with
  | nil => rfl
  | cons a rest ih => simp [scramble, ih]

@[simp] theorem scramble_inflight (draw : Nat) (cells : List Nat) (s : State) : (scramble draw cells s).inflight = s.inflight := by
  induction cells generalizing s with
  | nil => rfl
  | cons a rest ih => simp [scramble, ih]

@[simp] theorem scramble_agenda (draw : Nat) (cells : List Nat) (s : State) : (scramble draw cells s).agenda = s.agenda := by
  induction cells generalizing s with
  | nil => rfl
  | cons a rest ih => simp [scramble, ih]

@[simp] theorem scramble_hostReads (draw : Nat) (cells : List Nat) (s : State) : (scramble draw cells s).hostReads = s.hostReads := by
  induction cells generalizing s with
  | nil => rfl
  | cons a rest ih => simp [scramble, ih]

@[simp] theorem scramble_epoch (draw : Nat) (cells : List Nat) (s : State) : (scramble draw cells s).epoch = s.epoch := by
  induction cells generalizing s with
  | nil => rfl
  | cons a rest ih => simp [scramble, ih]

@[simp] theorem scramble_draws (draw : Nat) (cells : List Nat) (s : State) : (scramble draw cells s).draws = s.draws := by
  induction cells generalizing s with
  | nil => rfl
  | cons a rest ih => simp [scramble, ih]

@[simp] theorem writeLanes_build (d : Nat) (r : Bool) (e : Nat → Int) (p : Params) (s : State) :
    (writeLanes d r e p s).build = s.build := by simp [writeLanes]

@[simp] theorem writeLanes_ie (d : Nat) (r : Bool) (e : Nat → Int) (p : Params) (s : State) :
    (writeLanes d r e p s).ie = s.ie := by simp [writeLanes]

@[simp] theorem writeLanes_done (d : Nat) (r : Bool) (e : Nat → Int) (p : Params) (s : State) :
    (writeLanes d r e p s).done = s.done := by simp [writeLanes]

@[simp] theorem writeLanes_err (d : Nat) (r : Bool) (e : Nat → Int) (p : Params) (s : State) :
    (writeLanes d r e p s).err = s.err := by simp [writeLanes]

@[simp] theorem writeLanes_ovf (d : Nat) (r : Bool) (e : Nat → Int) (p : Params) (s : State) :
    (writeLanes d r e p s).ovf = ovfAfter r e p.N s.ovf := rfl

@[simp] theorem writeLanes_errcode (d : Nat) (r : Bool) (e : Nat → Int) (p : Params) (s : State) :
    (writeLanes d r e p s).errcode = s.errcode := by simp [writeLanes]

@[simp] theorem writeLanes_cmd (d : Nat) (r : Bool) (e : Nat → Int) (p : Params) (s : State) :
    (writeLanes d r e p s).cmd = s.cmd := by simp [writeLanes]

@[simp] theorem writeLanes_params (d : Nat) (r : Bool) (e : Nat → Int) (p : Params) (s : State) :
    (writeLanes d r e p s).params = s.params := by simp [writeLanes]

@[simp] theorem writeLanes_fout (d : Nat) (r : Bool) (e : Nat → Int) (p : Params) (s : State) :
    (writeLanes d r e p s).fout = s.fout := by simp [writeLanes]

@[simp] theorem writeLanes_wmask (d : Nat) (r : Bool) (e : Nat → Int) (p : Params) (s : State) :
    (writeLanes d r e p s).wmask = s.wmask := by simp [writeLanes]

@[simp] theorem writeLanes_mem (d : Nat) (r : Bool) (e : Nat → Int) (p : Params) (s : State) :
    (writeLanes d r e p s).mem = (writeCoeffs d (fun i => narrow r p.M (e i)) p.N s).mem := rfl

@[simp] theorem writeLanes_inflight (d : Nat) (r : Bool) (e : Nat → Int) (p : Params) (s : State) :
    (writeLanes d r e p s).inflight = s.inflight := by simp [writeLanes]

@[simp] theorem writeLanes_agenda (d : Nat) (r : Bool) (e : Nat → Int) (p : Params) (s : State) :
    (writeLanes d r e p s).agenda = s.agenda := by simp [writeLanes]

@[simp] theorem writeLanes_hostReads (d : Nat) (r : Bool) (e : Nat → Int) (p : Params) (s : State) :
    (writeLanes d r e p s).hostReads = s.hostReads := by simp [writeLanes]

@[simp] theorem writeLanes_epoch (d : Nat) (r : Bool) (e : Nat → Int) (p : Params) (s : State) :
    (writeLanes d r e p s).epoch = s.epoch := by simp [writeLanes]

@[simp] theorem writeLanes_draws (d : Nat) (r : Bool) (e : Nat → Int) (p : Params) (s : State) :
    (writeLanes d r e p s).draws = s.draws := by simp [writeLanes]

end Sys2Proof.Machine
end

