-- ==== Sys2Proof/Laws/Cycle.lean ====
section
/-! SUPPORT. What the command cycle can do: its two phases, and what it means that no check fails. -/

namespace Sys2Proof.Machine

variable {i : Instr} {effect : Params → State → State} {s t : State}

/-- With a command in flight, a meaning completes it (R76). -/
theorem commandCycle_completes {f : InFlight} (h : s.inflight = some f) :
    commandCycle i effect s = .next (finish (effect f.params s)) := by
  simp [commandCycle, h]

/-- With none in flight and every check passing, a meaning accepts the command (R75). -/
theorem commandCycle_accepts (h : s.inflight = none) (hc : firstError s.build s.params (checks i) = none) :
    commandCycle i effect s = .next (accept s) := by
  simp [commandCycle, h, hc]

/-- With none in flight and a check failing, a meaning rejects the command (R116). -/
theorem commandCycle_rejects {code : ErrCode} (h : s.inflight = none)
    (hc : firstError s.build s.params (checks i) = some code) :
    commandCycle i effect s = .next (reject code s) := by
  simp [commandCycle, h, hc]

/-- Everything a meaning can do. -/
theorem commandCycle_cases (h : commandCycle i effect s = .next t) :
    (∃ f, s.inflight = some f ∧ t = finish (effect f.params s)) ∨
    (∃ code, s.inflight = none ∧ firstError s.build s.params (checks i) = some code ∧ t = reject code s) ∨
    (s.inflight = none ∧ firstError s.build s.params (checks i) = none ∧ t = accept s) := by
  unfold commandCycle at h
  split at h
  · next f hf => exact .inl ⟨f, hf, by simpa using h.symm⟩
  · next hf =>
    split at h
    · next code hc => exact .inr (.inl ⟨code, hf, hc, by simpa using h.symm⟩)
    · next hc => exact .inr (.inr ⟨hf, hc, by simpa using h.symm⟩)

/-- No check fails exactly when every check of the list passes. -/
theorem firstError_eq_none {bd : Build} {p : Params} {l : List Check} :
    firstError bd p l = none ↔ ∀ c ∈ l, c.passes bd p = true := by
  induction l with
  | nil => simp [firstError]
  | cons c l ih => by_cases h : c.passes bd p <;> simp [firstError, h, ih]

/-- A check's code is one of 0x03 to 0x08. -/
theorem Check.code_ne_none (c : Check) : c.code ≠ .none := by cases c <;> simp [Check.code]

/-- A reported code is never 0x00. -/
theorem firstError_ne_none {bd : Build} {p : Params} {l : List Check} {code : ErrCode}
    (h : firstError bd p l = some code) : code ≠ .none := by
  induction l with
  | nil => simp [firstError] at h
  | cons c l ih =>
    by_cases hc : c.passes bd p
    · exact ih (by simpa [firstError, hc] using h)
    · simp [firstError, hc] at h
      exact h ▸ c.code_ne_none

/-- A command's check never reports 0x09, which is a host write's (R113). -/
theorem firstError_ne_busy {bd : Build} {p : Params} {l : List Check} {code : ErrCode}
    (h : firstError bd p l = some code) : code ≠ .busy := by
  induction l with
  | nil => simp [firstError] at h
  | cons c l ih =>
    by_cases hc : c.passes bd p
    · exact ih (by simpa [firstError, hc] using h)
    · simp [firstError, hc] at h
      subst h
      cases c <;> simp [Check.code]

end Sys2Proof.Machine
end

