-- ==== Sys2Proof/Laws/Memory.lean ====
section
/-! SUPPORT. The laws of memory: a cell read after a write, the canonical form, and what a run of coefficient or byte writes leaves in every cell. -/

namespace Sys2Proof.Machine

/-! ### Cells -/

theorem Memory.get_set_same (m : Memory) (a : Nat) (v : Byte) : (m.set a v).get a = some v := by
  induction m with
  | nil => simp [Memory.set, Memory.get]
  | cons c m ih =>
    obtain ⟨b, w⟩ := c
    by_cases h1 : a < b
    · simp [Memory.set, Memory.get, h1]
    · by_cases h2 : a = b
      · simp [Memory.set, Memory.get, h2]
      · simp [Memory.set, Memory.get, h1, h2, ih]

theorem Memory.get_set_other (m : Memory) {a a' : Nat} (v : Byte) (h : a' ≠ a) : (m.set a v).get a' = m.get a' := by
  induction m with
  | nil => simp [Memory.set, Memory.get, h]
  | cons c m ih =>
    obtain ⟨b, w⟩ := c
    by_cases h1 : a < b
    · simp [Memory.set, Memory.get, h1, h]
    · by_cases h2 : a = b
      · subst h2
        simp [Memory.set, Memory.get, h]
      · simp [Memory.set, Memory.get, h1, h2, ih]

/-- A write lists nothing new but its own cell. -/
theorem Memory.mem_set {m : Memory} {a : Nat} {v : Byte} {c : Host.Cell} (h : c ∈ m.set a v) :
    c = (a, v) ∨ c ∈ m := by
  induction m with
  | nil => simpa [Memory.set] using h
  | cons x m ih =>
    obtain ⟨b, w⟩ := x
    by_cases h1 : a < b
    · simpa [Memory.set, h1] using h
    · by_cases h2 : a = b
      · simp [Memory.set, h2] at h
        rcases h with h | h
        · exact .inl (by simp [h, h2])
        · exact .inr (by simp [h])
      · simp [Memory.set, h1, h2] at h
        rcases h with h | h
        · exact .inr (by simp [h])
        · rcases ih h with h' | h'
          · exact .inl h'
          · exact .inr (by simp [h'])

/-- A write keeps the canonical form. -/
theorem Memory.set_wf {m : Memory} (a : Nat) (v : Byte) (h : Memory.wf m) : Memory.wf (m.set a v) := by
  induction m with
  | nil => simp [Memory.set]
  | cons x m ih =>
    obtain ⟨b, w⟩ := x
    have hm := List.pairwise_cons.mp h
    by_cases h1 : a < b
    · simp only [Memory.set, h1, if_true]
      refine List.pairwise_cons.mpr ⟨fun c hc => ?_, h⟩
      rcases List.mem_cons.mp hc with rfl | hc
      · exact h1
      · exact Nat.lt_trans h1 (hm.1 c hc)
    · by_cases h2 : a = b
      · subst h2
        simp only [Memory.set, Nat.lt_irrefl, if_false, if_true]
        exact List.pairwise_cons.mpr ⟨hm.1, hm.2⟩
      · simp only [Memory.set, h1, h2, if_false]
        refine List.pairwise_cons.mpr ⟨fun c hc => ?_, ih hm.2⟩
        rcases Memory.mem_set hc with rfl | hc
        · show b < a
          omega
        · exact hm.1 c hc

@[simp] theorem readByte_writeByte_same (a : Nat) (v : Byte) (s : State) : readByte (writeByte a v s) a = v := by
  simp [readByte, Memory.get_set_same]

theorem readByte_writeByte_other {a a' : Nat} (v : Byte) (s : State) (h : a' ≠ a) :
    readByte (writeByte a v s) a' = readByte s a' := by
  simp [readByte, Memory.get_set_other _ v h]

/-- Reading a cell looks at the memory and the count of hardware resets only. -/
theorem readByte_congr {s t : State} (hm : t.mem = s.mem) (he : t.epoch = s.epoch) (a : Nat) :
    readByte t a = readByte s a := by
  simp [readByte, hm, he]

theorem readCoeff_congr {s t : State} (hm : t.mem = s.mem) (he : t.epoch = s.epoch) (b i : Nat) :
    readCoeff t b i = readCoeff s b i := by
  simp [readCoeff, readByte_congr hm he]

/-- A memory is memory of existing cells only. -/
def Memory.Mapped (bd : Build) (m : Memory) : Prop := ∀ c ∈ m, CellExists bd c.1

theorem Memory.set_mapped {bd : Build} {m : Memory} {a : Nat} (v : Byte) (ha : CellExists bd a)
    (h : Memory.Mapped bd m) : Memory.Mapped bd (m.set a v) := by
  intro c hc
  rcases Memory.mem_set hc with rfl | hc
  · exact ha
  · exact h c hc

/-! ### Coefficients -/

/-- A vector is its high part beside its low part. -/
theorem high_append_low {m n : Nat} (v : BitVec (m + n)) : v.extractLsb' n m ++ v.extractLsb' 0 n = v := by
  simp

/-- The two bytes of a coefficient make it up. -/
theorem half_of_bytes (v : Half) : (v.extractLsb' 8 8 ++ v.extractLsb' 0 8 : BitVec 16) = v :=
  high_append_low (m := 8) (n := 8) v

@[simp] theorem readCoeff_writeCoeff_same (b i : Nat) (v : Half) (s : State) :
    readCoeff (writeCoeff b i v s) b i = v := by
  have h : coeffAddr b i ≠ coeffAddr b i + 1 := by omega
  simp only [readCoeff, writeCoeff, readByte_writeByte_same, readByte_writeByte_other _ _ h]
  exact half_of_bytes v

theorem readByte_writeCoeff_other {a b i : Nat} (v : Half) (s : State)
    (h : a ≠ coeffAddr b i ∧ a ≠ coeffAddr b i + 1) : readByte (writeCoeff b i v s) a = readByte s a := by
  simp [writeCoeff, readByte_writeByte_other _ _ h.1, readByte_writeByte_other _ _ h.2]

/-- A run of coefficient writes leaves every cell outside its lanes alone. -/
theorem readByte_writeCoeffs_other {a b : Nat} (v : Nat → Half) (n : Nat) (s : State)
    (h : ∀ i, i < n → a ≠ coeffAddr b i ∧ a ≠ coeffAddr b i + 1) :
    readByte (writeCoeffs b v n s) a = readByte s a := by
  induction n with
  | zero => rfl
  | succ n ih =>
    rw [writeCoeffs, readByte_writeCoeff_other _ _ (h n (by omega)), ih fun i hi => h i (by omega)]

/-- A run of coefficient writes leaves in each lane the value written. -/
theorem readCoeff_writeCoeffs_lane {b i : Nat} (v : Nat → Half) (n : Nat) (s : State) (hi : i < n) :
    readCoeff (writeCoeffs b v n s) b i = v i := by
  induction n with
  | zero => omega
  | succ n ih =>
    by_cases h : i = n
    · subst h
      exact readCoeff_writeCoeff_same b i (v i) _
    · have h1 : coeffAddr b i ≠ coeffAddr b n ∧ coeffAddr b i ≠ coeffAddr b n + 1 := by
        simp only [coeffAddr]; omega
      have h2 : coeffAddr b i + 1 ≠ coeffAddr b n ∧ coeffAddr b i + 1 ≠ coeffAddr b n + 1 := by
        simp only [coeffAddr]; omega
      rw [writeCoeffs, readCoeff, readByte_writeCoeff_other _ _ h1, readByte_writeCoeff_other _ _ h2]
      exact ih (by omega)

theorem writeCoeffs_wf (b : Nat) (v : Nat → Half) (n : Nat) (s : State) (h : s.mem.wf) :
    (writeCoeffs b v n s).mem.wf := by
  induction n with
  | zero => exact h
  | succ n ih => exact Memory.set_wf _ _ (Memory.set_wf _ _ ih)

theorem writeCoeffs_mapped {b : Nat} (v : Nat → Half) {n : Nat} (s : State) (hb : b < s.build.nbank)
    (hn : n ≤ s.build.nmax) (h : Memory.Mapped s.build s.mem) :
    Memory.Mapped s.build (writeCoeffs b v n s).mem := by
  induction n with
  | zero => exact h
  | succ n ih =>
    have hx := ih (by omega)
    refine Memory.set_mapped _ (.inl ⟨b, n, hb, by omega, .inr rfl⟩) ?_
    exact Memory.set_mapped _ (.inl ⟨b, n, hb, by omega, .inl rfl⟩) hx

/-! ### Buffer bytes -/

/-- A run of byte writes leaves every cell outside its window alone. -/
theorem readByte_writeBufs_other {a off : Nat} (v : Nat → Byte) (n : Nat) (s : State)
    (h : ∀ j, j < n → a ≠ bufAddr (off + j)) : readByte (writeBufs off v n s) a = readByte s a := by
  induction n with
  | zero => rfl
  | succ n ih =>
    rw [writeBufs, writeBuf, readByte_writeByte_other _ _ (h n (by omega)), ih fun j hj => h j (by omega)]

/-- A run of byte writes leaves in each byte the value written. -/
theorem readBuf_writeBufs_byte {off j : Nat} (v : Nat → Byte) (n : Nat) (s : State) (hj : j < n) :
    readBuf (writeBufs off v n s) (off + j) = v j := by
  induction n with
  | zero => omega
  | succ n ih =>
    by_cases h : j = n
    · subst h
      simp [writeBufs, writeBuf, readBuf]
    · have h1 : bufAddr (off + j) ≠ bufAddr (off + n) := by simp only [bufAddr]; omega
      rw [writeBufs, writeBuf, readBuf, readByte_writeByte_other _ _ h1]
      exact ih (by omega)

theorem writeBufs_wf (off : Nat) (v : Nat → Byte) (n : Nat) (s : State) (h : s.mem.wf) :
    (writeBufs off v n s).mem.wf := by
  induction n with
  | zero => exact h
  | succ n ih => exact Memory.set_wf _ _ ih

theorem writeBufs_mapped {off : Nat} (v : Nat → Byte) {n : Nat} (s : State) (hn : off + n ≤ s.build.bufsz)
    (h : Memory.Mapped s.build s.mem) : Memory.Mapped s.build (writeBufs off v n s).mem := by
  induction n with
  | zero => exact h
  | succ n ih =>
    exact Memory.set_mapped _ (.inr ⟨off + n, by omega, rfl⟩) (ih (by omega))

/-! ### Aborted cells -/

theorem readByte_scramble_other {a : Nat} (draw : Nat) (cells : List Nat) (s : State) (h : a ∉ cells) :
    readByte (scramble draw cells s) a = readByte s a := by
  induction cells generalizing s with
  | nil => rfl
  | cons b rest ih =>
    simp only [List.mem_cons, not_or] at h
    rw [scramble, ih _ h.2, readByte_writeByte_other _ _ h.1]

theorem scramble_wf (draw : Nat) (cells : List Nat) (s : State) (h : s.mem.wf) : (scramble draw cells s).mem.wf := by
  induction cells generalizing s with
  | nil => exact h
  | cons b rest ih => exact ih _ (Memory.set_wf _ _ h)

theorem scramble_mapped (draw : Nat) (cells : List Nat) (s : State) (hc : ∀ a ∈ cells, CellExists s.build a)
    (h : Memory.Mapped s.build s.mem) : Memory.Mapped s.build (scramble draw cells s).mem := by
  induction cells generalizing s with
  | nil => exact h
  | cons b rest ih =>
    exact ih (writeByte b (Config.abortedByte draw b) s) (fun a ha => hc a (by simp [ha]))
      (Memory.set_mapped _ (hc b (by simp)) h)

/-! ### Footprints -/

theorem mem_bankCells {a b n : Nat} :
    a ∈ bankCells b n ↔ ∃ i, i < n ∧ (a = coeffAddr b i ∨ a = coeffAddr b i + 1) := by
  simp [bankCells]

theorem mem_windowCells {a off nb : Nat} : a ∈ windowCells off nb ↔ ∃ j, j < nb ∧ a = bufAddr (off + j) := by
  simp [windowCells, eq_comm]

/-- Coefficients of different banks, or of different indexes below 2048, share no cell (R50). -/
theorem coeffAddr_inj {b i b' i' : Nat} (hi : i < 2048) (hi' : i' < 2048) (h : coeffAddr b i = coeffAddr b' i') :
    b = b' ∧ i = i' := by
  simp only [coeffAddr] at h
  omega

/-- No coefficient of banks 0 to 7 lies in the buffer window (R49). -/
theorem coeffAddr_lt_bufAddr {b i k : Nat} (hb : b < 8) (hi : i < 2048) : coeffAddr b i + 1 < bufAddr k := by
  simp only [coeffAddr, bufAddr]
  omega

end Sys2Proof.Machine
end

