-- ==== Sys2Proof/Laws/Exec.lean ====
section
/-! SUPPORT. Every meaning as the command cycle over one effect, and what an effect can change. -/

namespace Sys2Proof.Machine

/-- What each command's completion computes: the effect that its meaning gives the cycle. -/
def commandEffect (i : Instr) (p : Params) (t : State) : State :=
  match i with
  | .nop => t
  | .sfreeze => { t with fout := sfreezeResult p }
  | .freeze d a => writeCoeffs d (fun k => wrap16 (freeze p.M (coeff t a k))) p.N t
  | .add d a b r => writeLanes d r (addLane t a b) p t
  | .sub d a b r => writeLanes d r (subLane t a b) p t
  | .smul d a r => writeLanes d r (smulLane p t a) p t
  | .mul d a b =>
    writeCoeffs d (fun k => wrap16 ((mulResult p.M p.N (coeff t a) (coeff t b)).getD k 0)) p.N t
  | .wcheck d a pol =>
    let mask := weightMask (weight pol (readCoeff t a) p.L) p.W
    { writeCoeffs d (fun k => maskedCoeff mask p.W k (readCoeff t a k)) p.N t with wmask := wmaskWord mask }
  | .top d a => writeCoeffs d (fun k => topValue p.tau0Int p.tau1Int (coeff t a k)) p.I t
  | .topenc a => writeBufs p.off (topencByte (readCoeff t a) p.I) (windowBytes 2 p.I) t
  | .topdec d => writeCoeffs d (topdecValue (fun j => readBuf t (p.off + j))) p.I t
  | .inenc a => writeBufs p.off (inencByte (readCoeff t a) p.I) (windowBytes 8 p.I) t
  | .indec d => writeCoeffs d (indecValue (fun j => readBuf t (p.off + j))) p.I t

/-- Every meaning is the command cycle over its effect. -/
theorem exec_eq_commandCycle (i : Instr) (s : State) : exec i s = commandCycle i (commandEffect i) s := by
  cases i <;> rfl

/-- With a command in flight, every meaning completes it with its effect (R76). -/
theorem exec_completes (i : Instr) {s : State} {f : InFlight} (h : s.inflight = some f) :
    exec i s = .next (finish (commandEffect i f.params s)) := by
  rw [exec_eq_commandCycle, commandCycle_completes h]

/-- With none in flight and every check passing, every meaning accepts its command (R75). -/
theorem exec_accepts {i : Instr} {s : State} (h : s.inflight = none)
    (hc : firstError s.build s.params (checks i) = none) : exec i s = .next (accept s) := by
  rw [exec_eq_commandCycle, commandCycle_accepts h hc]

/-- With none in flight and a check failing, every meaning rejects its command (R116). -/
theorem exec_rejects {i : Instr} {s : State} {code : ErrCode} (h : s.inflight = none)
    (hc : firstError s.build s.params (checks i) = some code) : exec i s = .next (reject code s) := by
  rw [exec_eq_commandCycle, commandCycle_rejects h hc]

/-- Everything a meaning can do: complete, reject or accept. -/
theorem exec_cases {i : Instr} {s t : State} (h : exec i s = .next t) :
    (∃ f, s.inflight = some f ∧ t = finish (commandEffect i f.params s)) ∨
    (∃ code, s.inflight = none ∧ firstError s.build s.params (checks i) = some code ∧ t = reject code s) ∨
    (s.inflight = none ∧ firstError s.build s.params (checks i) = none ∧ t = accept s) :=
  commandCycle_cases (exec_eq_commandCycle i s ▸ h)

/-- Every meaning answers a next state. -/
theorem exec_next (i : Instr) (s : State) : ∃ t, exec i s = .next t := by
  cases hf : s.inflight with
  | some f => exact ⟨_, exec_completes i hf⟩
  | none =>
    cases hc : firstError s.build s.params (checks i) with
    | none => exact ⟨_, exec_accepts hf hc⟩
    | some code => exact ⟨_, exec_rejects hf hc⟩

@[simp] theorem commandEffect_build (i : Instr) (p : Params) (s : State) : (commandEffect i p s).build = s.build := by
  cases i <;> simp [commandEffect]

@[simp] theorem commandEffect_ie (i : Instr) (p : Params) (s : State) : (commandEffect i p s).ie = s.ie := by
  cases i <;> simp [commandEffect]

@[simp] theorem commandEffect_done (i : Instr) (p : Params) (s : State) : (commandEffect i p s).done = s.done := by
  cases i <;> simp [commandEffect]

@[simp] theorem commandEffect_err (i : Instr) (p : Params) (s : State) : (commandEffect i p s).err = s.err := by
  cases i <;> simp [commandEffect]

@[simp] theorem commandEffect_errcode (i : Instr) (p : Params) (s : State) : (commandEffect i p s).errcode = s.errcode := by
  cases i <;> simp [commandEffect]

@[simp] theorem commandEffect_cmd (i : Instr) (p : Params) (s : State) : (commandEffect i p s).cmd = s.cmd := by
  cases i <;> simp [commandEffect]

@[simp] theorem commandEffect_params (i : Instr) (p : Params) (s : State) : (commandEffect i p s).params = s.params := by
  cases i <;> simp [commandEffect]

@[simp] theorem commandEffect_inflight (i : Instr) (p : Params) (s : State) : (commandEffect i p s).inflight = s.inflight := by
  cases i <;> simp [commandEffect]

@[simp] theorem commandEffect_agenda (i : Instr) (p : Params) (s : State) : (commandEffect i p s).agenda = s.agenda := by
  cases i <;> simp [commandEffect]

@[simp] theorem commandEffect_hostReads (i : Instr) (p : Params) (s : State) : (commandEffect i p s).hostReads = s.hostReads := by
  cases i <;> simp [commandEffect]

@[simp] theorem commandEffect_epoch (i : Instr) (p : Params) (s : State) : (commandEffect i p s).epoch = s.epoch := by
  cases i <;> simp [commandEffect]

@[simp] theorem commandEffect_draws (i : Instr) (p : Params) (s : State) : (commandEffect i p s).draws = s.draws := by
  cases i <;> simp [commandEffect]

/-- An effect leaves every cell outside the command's destination alone (R80, R104). -/
theorem readByte_commandEffect_other {i : Instr} {p : Params} {s : State} {x : Nat}
    (h : x ∉ destCells i p.public) : readByte (commandEffect i p s) x = readByte s x := by
  have lanes : ∀ (d n : Nat) (v : Nat → Half) (t : State), x ∉ bankCells d n →
      readByte (writeCoeffs d v n t) x = readByte t x := fun d n v t hx =>
    readByte_writeCoeffs_other v n t fun k hk =>
      ⟨fun he => hx (mem_bankCells.mpr ⟨k, hk, .inl he⟩), fun he => hx (mem_bankCells.mpr ⟨k, hk, .inr he⟩)⟩
  have bytes : ∀ (off n : Nat) (v : Nat → Byte) (t : State), x ∉ windowCells off n →
      readByte (writeBufs off v n t) x = readByte t x := fun off n v t hx =>
    readByte_writeBufs_other v n t fun j hj he => hx (mem_windowCells.mpr ⟨j, hj, he⟩)
  cases i with
  | nop => rfl
  | sfreeze => rfl
  | freeze d a => exact lanes _ _ _ _ h
  | add d a b r => exact lanes _ _ _ _ h
  | sub d a b r => exact lanes _ _ _ _ h
  | smul d a r => exact lanes _ _ _ _ h
  | mul d a b => exact lanes _ _ _ _ h
  | wcheck d a pol => exact lanes _ _ _ _ h
  | top d a => exact lanes _ _ _ _ h
  | topenc a => exact bytes _ _ _ _ h
  | topdec d => exact lanes _ _ _ _ h
  | inenc a => exact bytes _ _ _ _ h
  | indec d => exact lanes _ _ _ _ h

/-- An effect keeps the canonical form of the memory. -/
theorem commandEffect_wf (i : Instr) (p : Params) (s : State) (h : s.mem.wf) : (commandEffect i p s).mem.wf := by
  cases i with
  | nop => exact h
  | sfreeze => exact h
  | freeze d a => exact writeCoeffs_wf _ _ _ _ h
  | add d a b r => exact writeCoeffs_wf _ _ _ _ h
  | sub d a b r => exact writeCoeffs_wf _ _ _ _ h
  | smul d a r => exact writeCoeffs_wf _ _ _ _ h
  | mul d a b => exact writeCoeffs_wf _ _ _ _ h
  | wcheck d a pol => exact writeCoeffs_wf _ _ _ _ h
  | top d a => exact writeCoeffs_wf _ _ _ _ h
  | topenc a => exact writeBufs_wf _ _ _ _ h
  | topdec d => exact writeCoeffs_wf _ _ _ _ h
  | inenc a => exact writeBufs_wf _ _ _ _ h
  | indec d => exact writeCoeffs_wf _ _ _ _ h

end Sys2Proof.Machine
end

