-- ==== Sys2Proof/Laws/PerInstr.lean ====
section
/-! SUPPORT. Statements made for each command. CheckOrder: the checks of a command stand in the order in which errors are reported (R115). -/

namespace Sys2Proof.Laws.CheckOrder

open Sys2Proof.Machine

/-- The codes of a command's checks never decrease along its list (R115). -/
def Statement (i : Instr) : Prop :=
  List.Pairwise (fun x y : Check => x.code.number.toNat ≤ y.code.number.toNat) (checks i)

theorem nop : Statement .nop := by simp [Statement, checks]

theorem sfreeze : Statement .sfreeze := by simp [Statement, checks]

theorem freeze (d a : Nat) : Statement (.freeze d a) := by
  simp [Statement, checks, Check.code, ErrCode.number]

theorem add (d a b : Nat) (r : Bool) : Statement (.add d a b r) := by
  cases r <;> simp [Statement, checks, Check.code, ErrCode.number]

theorem sub (d a b : Nat) (r : Bool) : Statement (.sub d a b r) := by
  cases r <;> simp [Statement, checks, Check.code, ErrCode.number]

theorem smul (d a : Nat) (r : Bool) : Statement (.smul d a r) := by
  cases r <;> simp [Statement, checks, Check.code, ErrCode.number]

theorem mul (d a b : Nat) : Statement (.mul d a b) := by
  simp [Statement, checks, Check.code, ErrCode.number]

theorem wcheck (d a : Nat) (p : WeightPolicy) : Statement (.wcheck d a p) := by
  simp [Statement, checks, Check.code, ErrCode.number]

theorem top (d a : Nat) : Statement (.top d a) := by
  simp [Statement, checks, Check.code, ErrCode.number]

theorem topenc (a : Nat) : Statement (.topenc a) := by
  simp [Statement, checks, Check.code, ErrCode.number]

theorem topdec (d : Nat) : Statement (.topdec d) := by
  simp [Statement, checks, Check.code, ErrCode.number]

theorem inenc (a : Nat) : Statement (.inenc a) := by
  simp [Statement, checks, Check.code, ErrCode.number]

theorem indec (d : Nat) : Statement (.indec d) := by
  simp [Statement, checks, Check.code, ErrCode.number]

end Sys2Proof.Laws.CheckOrder
end

