-- ==== Sys2Proof/Laws/Port.lean ====
section
/-! SUPPORT. What an offset of the aperture names, and what one step does for each kind of event. -/

namespace Sys2Proof.Machine

/-! ### Targets (R49 to R51) -/

/-- A register's offset names it (R19). -/
@[simp] theorem Reg.at_offset (r : Reg) : Reg.at r.offset = some r := by cases r <;> rfl

theorem Reg.offset_lt (r : Reg) : r.offset ≤ 0x50 := by cases r <;> decide

theorem Reg.offset_aligned (r : Reg) : r.offset % 4 = 0 := by cases r <;> decide

@[simp] theorem target_register (bd : Build) (r : Reg) : target bd r.offset = .register r := by
  have h := r.offset_lt
  simp [target, show r.offset < 0x10000 by omega]

/-- A bank window word (R50). -/
theorem target_bank (bd : Build) {b i : Nat} (hb : b ≤ 7) (hi : i ≤ 2047) :
    target bd (0x10000 + 0x2000 * b + 4 * i) =
      if b < bd.nbank ∧ i < bd.nmax then .coefficient b i else .reserved := by
  have h1 : ¬ 0x10000 + 0x2000 * b + 4 * i < 0x10000 := by omega
  have h2 : 0x10000 + 0x2000 * b + 4 * i < 0x20000 := by omega
  have h3 : (0x10000 + 0x2000 * b + 4 * i - 0x10000) / 0x2000 = b := by omega
  have h4 : (0x10000 + 0x2000 * b + 4 * i - 0x10000) % 0x2000 / 4 = i := by omega
  simp only [target, h1, h2, h3, h4, if_true, if_false]

/-- A buffer window word (R51). -/
theorem target_buffer (bd : Build) {k : Nat} (hk : 4 * k ≤ 0xFFFC) :
    target bd (0x20000 + 4 * k) = if 4 * k < bd.bufsz then .bufferWord (4 * k) else .reserved := by
  have h1 : ¬ 0x20000 + 4 * k < 0x10000 := by omega
  have h2 : ¬ 0x20000 + 4 * k < 0x20000 := by omega
  have h3 : 0x20000 + 4 * k < 0x30000 := by omega
  have h4 : 0x20000 + 4 * k - 0x20000 = 4 * k := by omega
  simp only [target, h1, h2, h3, h4, if_true, if_false]

/-- The offsets a register takes (R19). -/
theorem Reg.at_eq_some {off : Nat} {r : Reg} (h : Reg.at off = some r) : off = r.offset := by
  unfold Reg.at at h
  split at h <;> first | (cases h; rfl) | cases h

/-- The reserved offsets (R39, R49). -/
theorem target_reserved (bd : Build) {off : Nat} (ha : off % 4 = 0)
    (h : off = 0x00C ∨ (0x054 ≤ off ∧ off ≤ 0xFFFC) ∨ 0x30000 ≤ off) : target bd off = .reserved := by
  rcases h with rfl | ⟨h1, h2⟩ | h
  · rfl
  · have hn : Reg.at off = none := by
      cases hr : Reg.at off with
      | none => rfl
      | some r =>
        have := Reg.at_eq_some hr
        have := r.offset_lt
        omega
    simp [target, show off < 0x10000 by omega, hn]
  · simp [target, show ¬ off < 0x10000 by omega, show ¬ off < 0x20000 by omega, show ¬ off < 0x30000 by omega]

/-- What a register target says of its offset (R19, R49). -/
theorem target_eq_register {bd : Build} {off : Nat} {r : Reg} (h : target bd off = .register r) : off = r.offset := by
  unfold target at h
  split at h
  · split at h
    · next hr =>
      cases h
      exact Reg.at_eq_some hr
    · cases h
  · split at h
    · simp only at h
      split at h <;> cases h
    · split at h
      · simp only at h
        split at h <;> cases h
      · cases h

/-- What a coefficient target says of its offset (R50). -/
theorem target_eq_coefficient {bd : Build} {off b i : Nat} (ha : off % 4 = 0)
    (h : target bd off = .coefficient b i) : b < bd.nbank ∧ i < bd.nmax ∧ off = coeffAddr b i := by
  unfold target at h
  split at h
  · split at h <;> cases h
  · split at h
    · simp only at h
      split at h
      · next hm =>
        cases h
        refine ⟨hm.1, hm.2, ?_⟩
        simp only [coeffAddr]
        omega
      · cases h
    · split at h
      · simp only at h
        split at h <;> cases h
      · cases h

/-- What a buffer target says of its offset (R51). -/
theorem target_eq_bufferWord {bd : Build} {off k : Nat} (ha : off % 4 = 0)
    (h : target bd off = .bufferWord k) : k < bd.bufsz ∧ k % 4 = 0 ∧ off = bufAddr k := by
  unfold target at h
  split at h
  · split at h <;> cases h
  · split at h
    · simp only at h
      split at h <;> cases h
    · split at h
      · simp only at h
        split at h
        · next hm =>
          have hk : off - 0x20000 = k := by injection h
          rw [hk] at hm
          exact ⟨hm, by omega, by simp only [bufAddr]; omega⟩
        · cases h
      · cases h

/-! ### Steps -/

theorem step_read {s : State} {off : Nat} {rest : List Event} (h : s.agenda = .hostRead off :: rest)
    (ha : off % 4 = 0) (hl : off < 0x40000) :
    step s = .next (readTarget (target s.build off) { s with agenda := rest }) := by
  simp [step, h, runEvent, access, ha, show ¬ 0x40000 ≤ off by omega]

theorem step_write {s : State} {off : Nat} {v : Word} {rest : List Event} (h : s.agenda = .hostWrite off v :: rest)
    (ha : off % 4 = 0) (hl : off < 0x40000) :
    step s = writeTarget (target s.build off) v { s with agenda := rest } := by
  simp [step, h, runEvent, access, ha, show ¬ 0x40000 ≤ off by omega]

theorem step_completion {s : State} {rest : List Event} (h : CompletionIsNext s rest) :
    step s = complete { s with agenda := rest } := by
  rcases h with h | ⟨h, rfl⟩ | ⟨hf, h, later, rfl⟩
  · simp [step, h, runEvent]
  · simp only [step, h]
    rw [← h]
  · simp [step, h, runEvent, waitStep, State.busy, Option.isSome_iff_ne_none.mpr hf]

/-- A WAIT with BUSY = 0 is one read of STATUS (R73). -/
theorem step_wait_idle {s : State} {polls : Nat} {rest : List Event} (h : s.agenda = .hostWait polls :: rest)
    (hf : s.inflight = none) :
    step s = .next { s with agenda := rest, hostReads := readReg .status s :: s.hostReads } := by
  simp [step, h, runEvent, waitStep, State.busy, hf, answer, readReg, State.statusWord]

/-- A WAIT with BUSY = 1 and a read to come is that read of STATUS, and stays next (R73, log 20). -/
theorem step_wait_poll {s : State} {k : Nat} {rest : List Event} (h : s.agenda = .hostWait (k + 1) :: rest)
    (hf : s.inflight ≠ none) :
    step s = .next { s with agenda := .hostWait k :: rest, hostReads := readReg .status s :: s.hostReads } := by
  simp [step, h, runEvent, waitStep, State.busy, Option.isSome_iff_ne_none.mpr hf, answer, readReg, State.statusWord]

theorem step_hardReset {s : State} {rest : List Event} (h : s.agenda = .hardReset :: rest) :
    step s = .next (hardReset { s with agenda := rest }) := by
  simp [step, h, runEvent]

/-- What the completion of a decodable command in flight is (R76). -/
theorem complete_decodes {s : State} {f : InFlight} {i : Instr} (hf : s.inflight = some f)
    (hd : decode f.word = .ok i) : complete s = .next (finish (commandEffect i f.params s)) := by
  simp only [complete, hf, hd]
  exact exec_completes i hf

/-- With no command in flight the sequencer is idle (R128). -/
theorem complete_idle {s : State} (hf : s.inflight = none) : complete s = .next s := by
  simp [complete, hf]

/-- A write of CTRL's offset (R19, R23). -/
theorem step_writeCtrl {s : State} {v : Word} {rest : List Event} (h : s.agenda = .hostWrite 0x010 v :: rest) :
    step s = writeCtrl v { s with agenda := rest } := by
  rw [step_write h (by decide) (by decide), show (0x010 : Nat) = Reg.ctrl.offset from rfl, target_register]
  rfl

/-- A START that is accepted or rejected: everything it can do (R74, R116). -/
theorem startCommand_cases {s t : State} (hs : s.inflight = none) (h : startCommand s = .next t) :
    (∃ code, code ≠ .none ∧ code ≠ .busy ∧ t = reject code s) ∨
    (∃ i, decode s.cmd = .ok i ∧ firstError s.build s.params (checks i) = none ∧ t = accept s) := by
  unfold startCommand at h
  split at h
  · next i hd =>
    rcases exec_cases h with ⟨f, hf, -⟩ | ⟨code, -, hc, rfl⟩ | ⟨-, hc, rfl⟩
    · simp [hs] at hf
    · refine .inl ⟨code, firstError_ne_none hc, ?_, rfl⟩
      rintro rfl
      exact firstError_ne_busy hc rfl
    · exact .inr ⟨i, hd, hc, rfl⟩
  · exact .inl ⟨.illegalOp, by simp, by simp, by simpa using h.symm⟩
  · exact .inl ⟨.reserved, by simp, by simp, by simpa using h.symm⟩

/-- Two steps, the first of which has a next state. -/
theorem run_two {s t : State} (h : step s = .next t) : Host.Core.run Sys2Proof.core 2 s = step t := by
  have h1 : Sys2Proof.core.step s = .next t := h
  have h2 : Sys2Proof.core.step t = step t := rfl
  simp only [Host.Core.run, h1, h2]
  cases step t <;> rfl

/-! ### Everything a step can do -/

/-- Everything a completion with a next state can do (R76, R128). -/
theorem complete_cases {s t : State} (h : complete s = .next t) :
    (s.inflight = none ∧ t = s) ∨
    (∃ f i, s.inflight = some f ∧ decode f.word = .ok i ∧ t = finish (commandEffect i f.params s)) := by
  cases hf : s.inflight with
  | none => exact .inl ⟨rfl, by simpa [complete_idle hf] using h.symm⟩
  | some f =>
    cases hd : decode f.word with
    | ok i => exact .inr ⟨f, i, rfl, hd, by simpa [complete_decodes hf hd] using h.symm⟩
    | bad e => simp [complete, hf, hd] at h

/-- Everything a host write with a next state can do (R18, R23, R57). -/
theorem writeTarget_cases {tg : Target} {v : Word} {s t : State} (h : writeTarget tg v s = .next t) :
    (tg = .register .ctrl ∧ v.getLsbD 1 = true ∧ t = softReset s) ∨
    (tg = .register .ctrl ∧ v.getLsbD 1 = false ∧ v.getLsbD 0 = true ∧ s.inflight = none ∧
      startCommand { s with ie := v.getLsbD 2 } = .next t) ∨
    (tg = .register .ctrl ∧ v.getLsbD 1 = false ∧ v.getLsbD 0 = false ∧ t = { s with ie := v.getLsbD 2 }) ∨
    (tg = .register .ctrl ∧ s.inflight ≠ none ∧ v.getLsbD 1 = false ∧ v.getLsbD 0 = true ∧
      t = busyError { s with ie := v.getLsbD 2 }) ∨
    (tg = .register .status ∧ t = writeStatus v s) ∨
    (∃ r, tg = .register r ∧ r.locked = true ∧ s.inflight = none ∧ t = storeReg r v s) ∨
    (∃ b i, tg = .coefficient b i ∧ s.inflight = none ∧ t = writeCoeff b i (v.setWidth 16) s) ∨
    (∃ k, tg = .bufferWord k ∧ s.inflight = none ∧ t = writeBufWord k v s) ∨
    (s.inflight ≠ none ∧ t = busyError s) ∨ t = s := by
  have guard : ∀ store : State → State, t = guarded store s →
      (s.inflight = none ∧ t = store s) ∨ (s.inflight ≠ none ∧ t = busyError s) := by
    intro store h
    cases hf : s.inflight <;> simp [guarded, State.busy, hf, h]
  cases tg with
  | coefficient b i => rcases guard _ (Host.Outcome.next.inj h).symm with h | h <;> simp [h]
  | bufferWord k => rcases guard _ (Host.Outcome.next.inj h).symm with h | h <;> simp [h]
  | reserved => simp_all [writeTarget]
  | register r =>
    by_cases hc : r = .ctrl
    · subst hc
      simp only [writeTarget, writeCtrl] at h
      split at h
      · next h1 => exact .inl ⟨rfl, h1, (Host.Outcome.next.inj h).symm⟩
      · next h1 =>
        rw [Bool.not_eq_true] at h1
        split at h
        · next h0 =>
          split at h
          · next hb =>
            exact .inr (.inr (.inr (.inl ⟨rfl, Option.isSome_iff_ne_none.mp hb, h1, h0, (Host.Outcome.next.inj h).symm⟩)))
          · next hb =>
            exact .inr (.inl ⟨rfl, h1, h0, by simpa [State.busy] using hb, h⟩)
        · next h0 =>
          exact .inr (.inr (.inl ⟨rfl, h1, by simpa using h0, (Host.Outcome.next.inj h).symm⟩))
    · by_cases hs : r = .status
      · subst hs
        simp_all [writeTarget]
      · have hw : writeTarget (.register r) v s = .next (if r.locked then guarded (storeReg r v) s else s) := by
          cases r <;> first | rfl | contradiction
        rw [hw] at h
        cases hl : r.locked with
        | true =>
          rw [hl, if_pos rfl] at h
          rcases guard _ (Host.Outcome.next.inj h).symm with h | h <;> simp [h, hl]
        | false => simp_all

/-- Everything a step with a next state can do. -/
theorem step_cases {s t : State} (h : step s = .next t) :
    (∃ rest, CompletionIsNext s rest ∧ complete { s with agenda := rest } = .next t) ∨
    (∃ off rest, HostReadIsNext s off rest ∧ off % 4 = 0 ∧ off < 0x40000 ∧
      t = readTarget (target s.build off) { s with agenda := rest }) ∨
    (∃ off v rest, HostWriteIsNext s off v rest ∧ off % 4 = 0 ∧ off < 0x40000 ∧
      writeTarget (target s.build off) v { s with agenda := rest } = .next t) ∨
    (∃ k rest, s.agenda = .hostWait k :: rest ∧ s.inflight = none ∧
      t = { s with agenda := rest, hostReads := readReg .status s :: s.hostReads }) ∨
    (∃ k rest, s.agenda = .hostWait (k + 1) :: rest ∧ s.inflight ≠ none ∧
      t = { s with agenda := .hostWait k :: rest, hostReads := readReg .status s :: s.hostReads }) ∨
    ∃ rest, s.agenda = .hardReset :: rest ∧ t = hardReset { s with agenda := rest } := by
  have accesses : ∀ {off : Nat} {u : State} {act : Target → Host.Outcome State Fault Refusal},
      access off u act = .next t → off % 4 = 0 ∧ off < 0x40000 ∧ act (target u.build off) = .next t := by
    intro off u act h
    unfold access at h
    split at h
    · cases h
    · split at h
      · cases h
      · exact ⟨by omega, by omega, h⟩
  cases ha : s.agenda with
  | nil => exact .inl ⟨[], .inr (.inl ⟨ha, rfl⟩), (step_completion (.inr (.inl ⟨ha, rfl⟩))).symm.trans h⟩
  | cons e rest =>
    have hr : step s = runEvent e { s with agenda := rest } := by simp [step, ha]
    cases e with
    | hostRead off =>
      rw [hr, runEvent] at h
      obtain ⟨h1, h2, h3⟩ := accesses h
      exact .inr (.inl ⟨off, rest, ha, h1, h2, (Host.Outcome.next.inj h3).symm⟩)
    | hostWrite off v =>
      rw [hr, runEvent] at h
      obtain ⟨h1, h2, h3⟩ := accesses h
      exact .inr (.inr (.inl ⟨off, v, rest, ha, h1, h2, h3⟩))
    | hostOther bits off => cases hr.symm.trans h
    | completion => exact .inl ⟨rest, .inl ha, hr.symm.trans h⟩
    | hardReset => exact .inr (.inr (.inr (.inr (.inr ⟨rest, rfl, (Host.Outcome.next.inj (hr.symm.trans h)).symm⟩))))
    | hostWait k =>
      by_cases hf : s.inflight = none
      · exact .inr (.inr (.inr (.inl ⟨k, rest, rfl, hf, by simpa [step_wait_idle ha hf] using h.symm⟩)))
      · cases k with
        | zero =>
          have hc : CompletionIsNext s (.hostWait 0 :: rest) := .inr (.inr ⟨hf, ha, rest, rfl⟩)
          exact .inl ⟨_, hc, (step_completion hc).symm.trans h⟩
        | succ k =>
          exact .inr (.inr (.inr (.inr (.inl ⟨k, rest, rfl, hf, by simpa [step_wait_poll ha hf] using h.symm⟩))))

end Sys2Proof.Machine
end

