-- ==== Sys2Proof/Tests/Slice0.lean ====
section
/-! SUPPORT. Tests of the model: well-formedness, words written out from the spec's encoding, one step of each command with the spec's vectors, and a witness for the hypotheses of each statement. -/

namespace Sys2Proof.Tests

open Sys2Proof Sys2Proof.Machine

/-! ### Well-formedness: each check refuses an ill-formed term -/

theorem test_wellFormed_refuses_freeze_d : (Instr.freeze 16 0).wellFormed = false := by decide
theorem test_wellFormed_refuses_freeze_a : (Instr.freeze 0 16).wellFormed = false := by decide
theorem test_wellFormed_refuses_add : ∀ r, (Instr.add 16 0 0 r).wellFormed = false ∧
    (Instr.add 0 16 0 r).wellFormed = false ∧ (Instr.add 0 0 16 r).wellFormed = false := by decide
theorem test_wellFormed_refuses_sub : ∀ r, (Instr.sub 16 0 0 r).wellFormed = false ∧
    (Instr.sub 0 16 0 r).wellFormed = false ∧ (Instr.sub 0 0 16 r).wellFormed = false := by decide
theorem test_wellFormed_refuses_smul : ∀ r, (Instr.smul 16 0 r).wellFormed = false ∧
    (Instr.smul 0 16 r).wellFormed = false := by decide
theorem test_wellFormed_refuses_mul : (Instr.mul 16 0 0).wellFormed = false ∧
    (Instr.mul 0 16 0).wellFormed = false ∧ (Instr.mul 0 0 16).wellFormed = false := by decide
theorem test_wellFormed_refuses_wcheck : (Instr.wcheck 16 0 .nonzero).wellFormed = false ∧
    (Instr.wcheck 0 16 .plusOne).wellFormed = false := by decide
theorem test_wellFormed_refuses_top : (Instr.top 16 0).wellFormed = false ∧ (Instr.top 0 16).wellFormed = false := by
  decide
theorem test_wellFormed_refuses_codec : (Instr.topenc 16).wellFormed = false ∧ (Instr.topdec 16).wellFormed = false ∧
    (Instr.inenc 16).wellFormed = false ∧ (Instr.indec 16).wellFormed = false := by decide

/-! ### Decoding, words written out as 0000000000 P R BBBB AAAA DDDD OOOOOOOO (R63) -/

theorem test_decode_nop : decode 0b0000000000_0_0_0000_0000_0000_00000000#32 = .ok .nop := by decide
theorem test_decode_sfreeze : decode 0b0000000000_0_0_0000_0000_0000_00000001#32 = .ok .sfreeze := by decide
theorem test_decode_freeze : decode 0b0000000000_0_0_0000_0011_0100_00000010#32 = .ok (.freeze 4 3) := by decide
theorem test_decode_add : decode 0b0000000000_0_1_0100_0010_0101_00000011#32 = .ok (.add 5 2 4 true) := by decide
theorem test_decode_sub : decode 0b0000000000_0_0_0110_0001_0111_00000100#32 = .ok (.sub 7 1 6 false) := by decide
theorem test_decode_smul : decode 0b0000000000_0_1_0000_0011_0100_00000101#32 = .ok (.smul 4 3 true) := by decide
theorem test_decode_mul : decode 0b0000000000_0_0_0010_0100_0101_00000110#32 = .ok (.mul 5 4 2) := by decide
theorem test_decode_wcheck : decode 0b0000000000_1_0_0000_0101_0111_00000111#32 = .ok (.wcheck 7 5 .plusOne) := by
  decide
theorem test_decode_top : decode 0b0000000000_0_0_0000_0101_0110_00001000#32 = .ok (.top 6 5) := by decide
theorem test_decode_topenc : decode 0b0000000000_0_0_0000_0110_0000_00001001#32 = .ok (.topenc 6) := by decide
theorem test_decode_topdec : decode 0b0000000000_0_0_0000_0000_0111_00001010#32 = .ok (.topdec 7) := by decide
theorem test_decode_inenc : decode 0b0000000000_0_0_0000_1111_0000_00001011#32 = .ok (.inenc 15) := by decide
theorem test_decode_indec : decode 0b0000000000_0_0_0000_0000_1000_00001100#32 = .ok (.indec 8) := by decide
/-- 2.8: opcode before RSV; R67: SMUL ignores B, TOPENC ignores D. -/
theorem test_decode_rejections : decode 0x8000000D#32 = .bad .illegalOp ∧ decode 0x00400902#32 = .bad .reserved ∧
    decode 0x000F0005#32 = .ok (.smul 0 0 false) ∧ decode 0x00000F09#32 = .ok (.topenc 0) := by decide
/-- The assembler's words of R71. -/
theorem test_encode_words : encode (.add 5 2 4 true) = 0x00142503#32 ∧ encode (.wcheck 7 5 .plusOne) = 0x00205707#32 ∧
    encode (.mul 3 0 1) = 0x00010306#32 ∧ encode (.topenc 6) = 0x00006009#32 := by decide
theorem test_decodeTableWord : decodeTableWord 32 0x00010306 = some (.mul 3 0 1) ∧ decodeTableWord 32 0x0D = none := by
  decide

/-! ### One step of each command, with the vectors of 95_test_vectors.md section 2 -/

/-- The 16-bit value of an integer. -/
def h16 (x : Int) : Half := BitVec.ofInt 16 x

/-- Registers with PN, PM, PW, PI. -/
def regs (n m w i : Nat) : Params :=
  { Params.reset with pn := BitVec.ofNat 16 n, pm := BitVec.ofNat 16 m, pw := BitVec.ofNat 16 w, pi := BitVec.ofNat 16 i }

/-- Write a list of coefficients from bank[b][i] on. -/
def fill (b : Nat) : Nat → List Int → State → State
  | _, [], s => s
  | i, x :: xs, s => fill b (i + 1) xs (writeCoeff b i (h16 x) s)

/-- Write a list of bytes from buf[o] on. -/
def fillBuf : Nat → List Byte → State → State
  | _, [], s => s
  | o, x :: xs, s => fillBuf (o + 1) xs (writeBuf o x s)

/-- After reset, with a command of the given registers in flight. -/
def flying (i : Instr) (p : Params) : State := { State.reset with inflight := some ⟨encode i, p⟩ }

/-- After reset, with events to come. -/
def hosting (l : List Event) : State := { State.reset with agenda := l }

/-- After reset, idle, with CMD and the registers written and START = 1 as the next event. -/
def starting (w : Word) (p : Params) : State := { hosting [.hostWrite 0x010 1#32] with cmd := w, params := p }

/-- What a step leaves, or the default where it stops. -/
def after {α : Type} (o : Host.Outcome State Fault Refusal) (dflt : α) (f : State → α) : α :=
  match o with
  | .next t => f t
  | _ => dflt

/-- Coefficients 0 .. n-1 of bank b after a step. -/
def lanes (b n : Nat) (o : Host.Outcome State Fault Refusal) : List Int :=
  after o [] fun t => (List.range n).map (coeff t b)

/-- Bytes o .. o+n-1 of the buffer after a step. -/
def bytes (o n : Nat) (out : Host.Outcome State Fault Refusal) : List Byte :=
  after out [] fun t => (List.range n).map fun j => readBuf t (o + j)

theorem test_nop : after (step (flying .nop Params.reset)) none some = some { State.reset with done := true } := by
  decide

theorem test_sfreeze_min :
    after (step (flying .sfreeze { regs 0 4591 0 0 with finHi := 0x80000000#32 })) 0 State.fout = 0x173#32 := by decide
theorem test_sfreeze_half : after (step (flying .sfreeze { regs 0 4591 0 0 with finLo := 2296#32 })) 0 State.fout =
    0xFFFFF709#32 := by decide

theorem test_freeze : lanes 1 4 (step (fill 0 0 [2, -2, 32767, -32768] (flying (.freeze 1 0) (regs 4 3 0 0)))) =
    [-1, 1, 1, 1] := by decide
theorem test_freeze_even : lanes 0 2 (step (fill 0 0 [2, -2] (flying (.freeze 0 0) (regs 2 4 0 0)))) = [2, 2] := by
  decide

theorem test_add_wraps :
    let o := step (fill 1 0 [1, -1] (fill 0 0 [32767, -32768] (flying (.add 2 0 1 false) (regs 2 4591 0 0))))
    lanes 2 2 o = [-32768, 32767] ∧ after o false State.ovf = true := by decide
theorem test_add_aliased_reduced :
    let o := step (fill 0 0 [2295, -2296] (flying (.add 0 0 0 true) (regs 2 4591 0 0)))
    lanes 0 2 o = [-1, -1] ∧ after o true State.ovf = false := by decide

theorem test_sub_order :
    let o := step (fill 1 0 [1, -32768] (fill 0 0 [-32768, 0] (flying (.sub 2 0 1 false) (regs 2 4591 0 0))))
    lanes 2 2 o = [32767, -32768] ∧ after o false State.ovf = true := by decide
theorem test_sub_reduced :
    lanes 2 2 (step (fill 1 0 [32767, -32768] (fill 0 0 [1, -1] (flying (.sub 2 0 1 true) (regs 2 4591 0 0))))) =
      [-629, 630] := by decide

theorem test_smul_min :
    lanes 1 2 (step (fill 0 0 [32767, -32768]
      (flying (.smul 1 0 true) { regs 2 4591 0 0 with scalar := 0x80000000#32 }))) = [-1335, -1177] := by decide
theorem test_smul_neg :
    let o := step (fill 0 0 [-32768, 5] (flying (.smul 1 0 false) { regs 2 4591 0 0 with scalar := 0xFFFFFFFF#32 }))
    lanes 1 2 o = [-32768, -5] ∧ after o false State.ovf = true := by decide

theorem test_mul : lanes 2 3 (step (fill 1 0 [4, 5, 6] (fill 0 0 [1, 2, 3] (flying (.mul 2 0 1) (regs 3 4591 0 0))))) =
    [31, 58, 46] := by decide
theorem test_mul_r3 :
    lanes 0 5 (step (fill 1 0 [-1, 1, 1, 0, -1] (fill 0 0 [1, -1, 0, 1, 1] (flying (.mul 0 0 1) (regs 5 3 0 0))))) =
      [-1, 0, 0, -1, 1] := by decide

theorem test_wcheck_pass :
    let o := step (fill 0 0 [0, 0, 1, 1] (flying (.wcheck 1 0 .nonzero) (regs 4 0 2 0)))
    lanes 1 4 o = [0, 0, 1, 1] ∧ after o 1 State.wmask = 0#32 := by decide
theorem test_wcheck_one_fails :
    let o := step (fill 0 0 [1, 0, -1, 0] (flying (.wcheck 1 0 .plusOne) (regs 4 0 2 0)))
    lanes 1 4 o = [1, 1, 0, 0] ∧ after o 1 State.wmask = 0xFFFFFFFF#32 := by decide

theorem test_top :
    lanes 1 5 (step (fill 0 0 [4325, 0, -30, 32767, -32768]
      (flying (.top 1 0) { regs 5 0 0 5 with tau0 := 2156#32, tau1 := 114#32 }))) = [23, 8, 7, 121, -106] := by decide
theorem test_top_count :
    lanes 1 4 (step (fill 1 0 [9, 9, 9, 9] (fill 0 0 [200, 0, 2295, -30]
      (flying (.top 1 0) { regs 5 0 0 3 with tau1 := 32768#32 })))) = [-56, 0, -9, 9] := by decide

theorem test_topenc :
    bytes 0 3 (step (fillBuf 0 [0xEE, 0xEE, 0xEE] (fill 0 0 [23, 0, -106, 5] (flying (.topenc 0) (regs 4 0 0 4))))) =
      [0x17, 0xD6, 0xEE] := by decide
theorem test_topenc_odd :
    bytes 2 2 (step (fillBuf 2 [0xEE, 0xEE] (fill 0 0 [15] (flying (.topenc 0) { regs 1 0 0 1 with boff := 2 })))) =
      [0x0F, 0xEE] := by decide

theorem test_topdec :
    lanes 0 5 (step (fillBuf 1 [0x21, 0x43, 0xA5] (flying (.topdec 0) { regs 5 0 0 5 with boff := 1 }))) =
      [1, 2, 3, 4, 5] := by decide

theorem test_inenc :
    bytes 5 3 (step (fillBuf 5 [0xEE, 0xEE, 0xEE] (fill 0 0 [1, 0, 0, 0, 1, 0, 0, 1, 1, 1]
      (flying (.inenc 0) { regs 10 0 0 10 with boff := 5 })))) = [0x91, 0x03, 0xEE] := by decide
theorem test_inenc_bit0 :
    bytes 0 1 (step (fill 0 0 [-1, 2, 3] (flying (.inenc 0) (regs 3 0 0 3)))) = [0x05] := by decide

theorem test_indec :
    lanes 0 10 (step (fillBuf 5 [0x91, 0x03] (flying (.indec 0) { regs 10 0 0 10 with boff := 5 }))) =
      [1, 0, 0, 0, 1, 0, 0, 1, 1, 1] := by decide

/-! ### START, resets and the host port -/

/-- STATUS and ERRCODE after the START of a word (section 2.8). -/
def started (w : Word) (p : Params) : Word × Byte :=
  after (step (starting w p)) (0, 0) fun t => (t.statusWord, t.errcode.number)

theorem test_start_accepts : started 0x000F0005#32 (regs 4 4591 0 0) = (0x1#32, 0x00#8) ∧
    started 0x00000001#32 (regs 0 4591 0 0) = (0x1#32, 0x00#8) ∧ started 0x00000003#32 (regs 4 0 0 0) = (0x1#32, 0x00#8) ∧
    started 0x0000000B#32 { regs 4 0 0 0 with boff := 4096 } = (0x1#32, 0x00#8) := by decide
theorem test_start_rejects : started 0x8000000D#32 (regs 4 4591 0 0) = (0x6#32, 0x01#8) ∧
    started 0x00400902#32 (regs 4 4591 0 0) = (0x6#32, 0x02#8) ∧ started 0x00000906#32 (regs 0 4591 0 0) = (0x6#32, 0x03#8) ∧
    started 0x00000002#32 (regs 1281 4591 0 0) = (0x6#32, 0x04#8) ∧ started 0x00100003#32 (regs 4 0 0 0) = (0x6#32, 0x05#8) ∧
    started 0x0000000A#32 { regs 4 0 0 5 with boff := 65535 } = (0x6#32, 0x06#8) ∧
    started 0x00000007#32 { regs 4 0 0 0 with wlen := 5 } = (0x6#32, 0x07#8) ∧
    started 0x00000009#32 { regs 4 0 0 3 with boff := 4095 } = (0x6#32, 0x08#8) := by decide
theorem test_withFetchWord_runs_nop : after (step (State.reset.withFetchWord 32 0)) none some =
    some { State.reset with inflight := some ⟨0, Params.reset⟩ } := by decide
/-- R57, R119: the write to PN is ignored with error 0x09. -/
theorem test_write_while_busy :
    after (step { flying .nop Params.reset with agenda := [.hostWrite 0x020 7#32] }) (0, 0) (fun t => (readReg .pn t, t.statusWord)) =
      (0#32, 0x5#32) := by decide
/-- R24, R26: CLRST clears DONE, ERR with CODE, and OVF. -/
theorem test_clrst :
    after (step { hosting [.hostWrite 0x014 0xE#32] with done := true, err := true, ovf := true, errcode := .bank })
      none some = some State.reset := by decide
/-- R130: SRST keeps nothing of IE or START written with it. -/
theorem test_soft_reset : after (step { hosting [.hostWrite 0x010 7#32] with ie := true, cmd := 5#32 }) none some =
    some State.reset := by decide
/-- R50: a bank word reads sign-extended. -/
theorem test_bank_read : after (step { fill 7 2 [-3] State.reset with agenda := [.hostRead 0x1E008] }) [] State.hostReads =
    [0xFFFFFFFD#32] := by decide
/-- R51, R52: a buffer word is little-endian. -/
theorem test_buffer_write : bytes 4 4 (step (hosting [.hostWrite 0x20004 0x0403A976#32])) =
    [0x76, 0xA9, 0x03, 0x04] := by decide
/-- R73: RUN's word of CTRL keeps IE. -/
theorem test_expand_run : (Pseudo.neg 1 2).expand true 1 = [.hostWrite 0x038 0xFFFFFFFF#32,
    .hostWrite 0x01C 0x00002105#32, .hostWrite 0x010 5#32, .hostWait 1] := by decide

/-- R73: a WAIT with BUSY = 0 is one read of STATUS; with BUSY = 1 it reads on until the completion and once more. -/
theorem test_wait :
    after (Host.Core.run Sys2Proof.core 1 { hosting [.hostWait 3, .hostRead 0x000] with done := true }) ([], [])
      (fun t => (t.hostReads, t.agenda)) = ([0x2#32], [.hostRead 0x000]) ∧
    after (Host.Core.run Sys2Proof.core 3 { flying .nop Params.reset with agenda := [.hostWait 1, .hostRead 0x000] }) ([], [])
      (fun t => (t.hostReads, t.agenda)) = ([0x2#32, 0x1#32], [.hostRead 0x000]) := by decide

/-! ### Witnesses: a concrete input that meets the hypotheses of each statement

A statement's hypotheses on the next events, on the command in flight and on its registers are met together. -/

/-- A command in flight on N = 4, M = 4591, W = 2, I = 4, with events to come. -/
def busyWith (i : Instr) (l : List Event) : State := { flying i (regs 4 4591 2 4) with agenda := l }

/-- Its in-flight copy. -/
def copyOf (i : Instr) : InFlight := ⟨encode i, regs 4 4591 2 4⟩

/-- Idle, with a word in CMD, N = 4, M = 4591, W = 2, I = 4, and events to come. -/
def idleWith (w : Word) (l : List Event) : State := { hosting l with cmd := w, params := regs 4 4591 2 4 }

theorem witness_DecodeOfEncodeIsTheCommand : (Instr.add 15 15 15 true).wellFormed = true ∧
    (Instr.indec 15).wellFormed = true ∧ (Instr.freeze 0 0).wellFormed = true := by decide

theorem witness_OpcodeAndReservedBitsSelectTheCommand :
    (∀ k : Fin 13, (0x003FFF00#32 + BitVec.ofNat 32 k.val) &&& 0xFFC000FF#32 = BitVec.ofNat 32 k.val) ∧
    decode 0x0000000C#32 = .ok (.indec 0) ∧ 0x0D ≤ (0x0000000D#32 &&& 0xFF#32).toNat ∧
    0x0D ≤ (0xFFFFFFFF#32 &&& 0xFF#32).toNat := by decide

theorem witness_IgnoredFieldsChangeNothing : decode 0x00000005#32 = .ok (.smul 0 0 false) ∧
    0x002F0005#32 &&& usedBits (.smul 0 0 false) = 0x00000005#32 &&& usedBits (.smul 0 0 false) ∧
    (Instr.topdec 15).wellFormed = true := by decide

theorem witness_BadWordsAreRejectedAtStart : (idleWith 0x0000000D#32 []).inflight = none ∧
    0x0D ≤ ((idleWith 0x0000000D#32 []).cmd.extractLsb' 0 8).toNat ∧
    0x0D ≤ ((idleWith 0xFFFFFFFF#32 []).cmd.extractLsb' 0 8).toNat ∧
    ((idleWith 0x0040000C#32 []).cmd.extractLsb' 0 8).toNat ≤ 0x0C ∧
    (idleWith 0x0040000C#32 []).cmd.extractLsb' 22 10 ≠ 0 ∧ (idleWith 0x80000000#32 []).cmd.extractLsb' 22 10 ≠ 0 := by
  decide

theorem witness_StartRunsTheDecodedCommand :
    HostWriteIsNext (idleWith 0x00010206#32 [.hostWrite 0x010 5#32]) 0x010 5#32 [] ∧ (5#32).getLsbD 0 = true ∧
    (5#32).getLsbD 1 = false ∧ (idleWith 0x00010206#32 [.hostWrite 0x010 5#32]).inflight = none ∧
    decode (idleWith 0x00010206#32 [.hostWrite 0x010 5#32]).cmd = .ok (.mul 2 0 1) :=
  ⟨rfl, by decide, by decide, rfl, by decide⟩

theorem witness_CompletionRunsTheCommandInFlight :
    (CompletionIsNext (busyWith (.mul 2 0 1) [.completion]) [] ∧ CompletionIsNext (busyWith (.mul 2 0 1) []) [] ∧
      CompletionIsNext (busyWith (.mul 2 0 1) [.hostWait 0]) [.hostWait 0]) ∧
    (busyWith (.mul 2 0 1) []).inflight = some (copyOf (.mul 2 0 1)) ∧
    decode (copyOf (.mul 2 0 1)).word = .ok (.mul 2 0 1) :=
  ⟨⟨.inl rfl, .inr (.inl ⟨rfl, rfl⟩), .inr (.inr ⟨by decide, rfl, [], rfl⟩)⟩, rfl, by decide⟩

theorem witness_CommandsAreCheckedAtStartInOrder : (idleWith 0x0000000D#32 []).inflight = none ∧
    decode (idleWith 0x0000000D#32 []).cmd = .bad .illegalOp ∧ decode (idleWith 0x00400000#32 []).cmd = .bad .reserved ∧
    decode (idleWith 0x00005608#32 []).cmd = .ok (.top 6 5) := by decide

theorem witness_RejectionIsPrecise : (idleWith 0x00000802#32 []).inflight = none ∧
    startCommand (idleWith 0x00000802#32 []) = .next (reject .bank (idleWith 0x00000802#32 [])) ∧
    (reject .bank (idleWith 0x00000802#32 [])).inflight = none :=
  ⟨rfl, exec_rejects (i := .freeze 8 0) rfl (by decide), rfl⟩

theorem witness_AcceptanceTakesTheCopyTheCommandRunsOn : (idleWith 0x00000102#32 []).inflight = none ∧
    startCommand (idleWith 0x00000102#32 []) = .next (accept (idleWith 0x00000102#32 [])) ∧
    (accept (idleWith 0x00000102#32 [])).inflight = some ⟨0x00000102#32, regs 4 4591 2 4⟩ ∧
    (busyWith (.freeze 1 0) []).inflight = some (copyOf (.freeze 1 0)) :=
  ⟨rfl, exec_accepts (i := .freeze 1 0) rfl (by decide), rfl, rfl⟩

theorem witness_StartThenCompletionRunsTheCommand :
    (idleWith 0x00000102#32 [.hostWrite 0x010 1#32, .completion]).agenda = .hostWrite 0x010 1#32 :: .completion :: [] ∧
    (1#32).getLsbD 0 = true ∧ (1#32).getLsbD 1 = false ∧ decode 0x00000102#32 = .ok (.freeze 1 0) ∧
    firstError Config.build (regs 4 4591 2 4) (checks (.freeze 1 0)) = none := by decide

theorem witness_OneCommandAtATime : (busyWith .nop []).inflight = some (copyOf .nop) ∧
    step (busyWith .nop []) = .next (finish (busyWith .nop [])) ∧
    step (busyWith .nop [.hostWrite 0x010 1#32]) = .next (busyError (busyWith .nop [])) ∧
    step (busyWith .nop [.hostWrite 0x010 2#32]) = .next (softReset (busyWith .nop [])) ∧
    step (busyWith .nop [.hardReset]) = .next (hardReset (busyWith .nop [])) := ⟨rfl, rfl, rfl, rfl, rfl⟩

/-- The hypotheses of NopOnlySetsDone, AnAcceptedCommandCannotFail and the statements of each command's completion:
a command in flight with N = 4, M = 4591, W = 2, I = 4. -/
theorem witness_completions : ∀ i : Instr, (busyWith i []).inflight = some (copyOf i) ∧
    (copyOf i).params.pm.toNat ≠ 0 ∧ 1 ≤ (copyOf i).params.pn.toNat ∧ 2 ≤ (copyOf i).params.pn.toNat ∧
    0 < (copyOf i).params.pi.toNat ∧ (idleWith 0 []).inflight = none :=
  fun _ => ⟨rfl, (by decide : (regs 4 4591 2 4).pm.toNat ≠ 0), (by decide : 1 ≤ (regs 4 4591 2 4).pn.toNat),
    (by decide : 2 ≤ (regs 4 4591 2 4).pn.toNat), (by decide : 0 < (regs 4 4591 2 4).pi.toNat), rfl⟩

/-- Both outcomes of WCHECK: weight 2 = W, and weight 1. -/
theorem witness_WcheckPassesOrReplacesTheCandidate :
    weight .nonzero (readCoeff (fill 0 0 [1, 0, -1, 0] State.reset) 0) 4 = (copyOf (.wcheck 1 0 .nonzero)).params.pw.toNat ∧
    weight .plusOne (readCoeff (fill 0 0 [1, 0, -1, 0] State.reset) 0) 4 ≠ (copyOf (.wcheck 1 0 .plusOne)).params.pw.toNat := by
  decide

/-- Moduli of FreezeIsTheUniqueCenteredResidue, FreezeRange and FreezeLaws: 1, an even one, the largest. -/
theorem witness_FreezeRange : (1 ≤ 1 ∧ 1 % 2 = 1) ∧ (1 ≤ 4 ∧ 4 % 2 = 0) ∧ (1 ≤ 65535 ∧ 65535 % 2 = 1 ∧ 65535 ≤ 65535) := by
  decide

/-- ExactValuesFitTheAccumulator: the last row, whole, of the largest N; the first and the last fold; the ends of M. -/
theorem witness_ExactValuesFitTheAccumulator :
    ((2048 : Nat) ≤ 2048 ∧ 2047 < 2048 ∧ 2048 ≤ 2048) ∧ (1 ≤ 1 ∧ 1 ≤ 65535 ∧ 65535 ≤ 65535) ∧
    (0 + 1 < 2048 ∧ 2046 + 1 < 2048) ∧ (0 + 1 < 2 ∧ foldDown 3 2 0 1 [5, 4, 2] = [1, 0, 2]) := by decide

/-- A MUL in flight with these sources. -/
def multiplying (A B : List Int) : State := fill 1 0 B (fill 0 0 A (busyWith (.mul 2 0 1) []))

/-- MulLaws: B = (1, 0, 0, 0), B = (0, 1, 0, 0), and two sources congruent modulo 4591. -/
theorem witness_MulLaws :
    (∀ i : Fin 4, coeff (multiplying [5, 6, 7, 8] [1, 0, 0, 0]) 1 i.val = if i.val = 0 then 1 else 0) ∧
    (∀ i : Fin 4, coeff (multiplying [5, 6, 7, 8] [0, 1, 0, 0]) 1 i.val = if i.val = 1 then 1 else 0) ∧
    (∀ i : Fin 4,
      ((4591 : Nat) : Int) ∣ coeff (multiplying [4592, 0, -4591, 3] [1, 1, 0, 0]) 0 i.val -
        coeff (multiplying [1, 4591, 0, 3] [1, 4592, 0, 0]) 0 i.val ∧
      ((4591 : Nat) : Int) ∣ coeff (multiplying [4592, 0, -4591, 3] [1, 1, 0, 0]) 1 i.val -
        coeff (multiplying [1, 4591, 0, 3] [1, 4592, 0, 0]) 1 i.val) ∧
    ∀ A ∈ [[5, 6, 7, 8], [4592, 0, -4591, 3], [1, 4591, 0, 3]], ∀ B ∈ [[1, 0, 0, 0], [0, 1, 0, 0], [1, 4592, 0, 0]],
      (multiplying A B).inflight = some (copyOf (.mul 2 0 1)) := by decide

/-- MulLaws: the product of the second source has a next state. -/
theorem witness_MulLaws_next :
    ∃ t, exec (.mul 2 0 1) (multiplying [1, 4591, 0, 3] [1, 4592, 0, 0]) = .next t := exec_next _ _

theorem witness_WcheckIsIdempotent : (busyWith (.wcheck 1 0 .nonzero) []).inflight = some (copyOf (.wcheck 1 0 .nonzero)) ∧
    firstError Config.build (copyOf (.wcheck 1 0 .nonzero)).params (checks (.wcheck 1 0 .nonzero)) = none ∧
    (copyOf (.wcheck 1 0 .nonzero)).params.pw.toNat ≤ 4 ∧
    after (step (fill 0 0 [1, 0, -1, 0] (busyWith (.wcheck 1 0 .nonzero) []))) 1 State.wmask = 0#32 := by decide

/-- The ends of the range of TopRangeOfTheFixtureConstants. -/
theorem witness_TopRangeOfTheFixtureConstants : (-2296 : Int) ≤ -2296 ∧ (2296 : Int) ≤ 2296 ∧
    topValue 2156 114 (-2296) = 0#16 ∧ topValue 2156 114 2296 = 15#16 := by decide

/-- NibbleRoundTrip and BitRoundTrip: sources inside the range that is returned, and A = (23, 0, -106, 5) outside it. -/
theorem witness_roundTrips : (copyOf (.topdec 1)).params.pi = (copyOf (.topenc 0)).params.pi ∧
    (copyOf (.topdec 1)).params.boff = (copyOf (.topenc 0)).params.boff ∧
    (∀ i : Fin 4, 0 ≤ coeff (fill 0 0 [0, 15, 7, 1] State.reset) 0 i.val ∧
      coeff (fill 0 0 [0, 15, 7, 1] State.reset) 0 i.val ≤ 15) ∧
    (∀ i : Fin 4, coeff (fill 0 0 [0, 1, 1, 0] State.reset) 0 i.val = 0 ∨ coeff (fill 0 0 [0, 1, 1, 0] State.reset) 0 i.val = 1) ∧
    after (exec (.topenc 0) (fill 0 0 [23, 0, -106, 5] (busyWith (.topenc 0) []))) []
      (fun t => lanes 1 4 (exec (.topdec 1) { t with inflight := some (copyOf (.topdec 1)) })) = [7, 1, 6, 13] := by
  decide

/-- Idle, with the expansion of a pseudo-instruction and a read of ID to come. -/
def pseudo (q : Pseudo) : State := idleWith 0 (q.expand true 2 ++ [.hostRead 0x000])

/-- PseudoInstructionsOfTheAssembler: a WAIT, idle and busy; a RUN, rejected and accepted; the six others. -/
theorem witness_PseudoInstructionsOfTheAssembler :
    (∀ q : Pseudo, (pseudo q).agenda = q.expand true 2 ++ [.hostRead 0x000] ∧ (pseudo q).inflight = none) ∧
    (busyWith .nop (Pseudo.wait.expand true 2 ++ [])).agenda = Pseudo.wait.expand true 2 ++ [] ∧
    (busyWith .nop []).inflight = some (copyOf .nop) ∧ decode (copyOf .nop).word = .ok .nop ∧
    (Instr.freeze 8 0).wellFormed = true ∧
    firstError Config.build (regs 4 4591 2 4) (checks (.freeze 8 0)) = some .bank ∧
    (Instr.freeze 1 0).wellFormed = true ∧ firstError Config.build (regs 4 4591 2 4) (checks (.freeze 1 0)) = none ∧
    Config.build.Legal ∧ firstError Config.build (regs 4 4591 2 4) (checks (.smul 1 0 false)) = none ∧
    firstError Config.build (regs 4 4591 2 4) (checks (.smul 7 7 false)) = none ∧
    firstError Config.build { regs 4 4591 2 4 with pm := 3#16 } (checks (.freeze 7 0)) = none :=
  ⟨fun _ => ⟨rfl, rfl⟩, rfl, rfl, by decide, by decide, by decide, by decide, by decide, by decide, by decide, by decide,
    by decide⟩

theorem witness_ReadOnlyRegisters : State.reset.build.Legal ∧ (Build.mk 2048 8 65536).Legal ∧ (Build.mk 2 3 4).Legal ∧
    ∀ off ∈ [0x000, 0x004, 0x008, 0x018, 0x04C, 0x050], HostReadIsNext (hosting [.hostRead off]) off [] :=
  ⟨by decide, by decide, by decide, fun _ _ => rfl⟩

theorem witness_RegistersReadBackWhatIsWritten :
    ∀ off ∈ [0x01C, 0x020, 0x024, 0x028, 0x02C, 0x030, 0x034, 0x038, 0x03C, 0x040, 0x044, 0x048],
      (hosting [.hostWrite off 0x12345678#32, .hostRead off]).inflight = none ∧
      (hosting [.hostWrite off 0x12345678#32, .hostRead off]).agenda =
        .hostWrite off 0x12345678#32 :: .hostRead off :: [] := fun _ _ => ⟨rfl, rfl⟩

/-- ControlRegister and SoftReset: SRST alone, SRST with START, START, IE alone, a read. -/
theorem witness_ControlRegister : (∀ v : Word, HostWriteIsNext (hosting [.hostWrite 0x010 v]) 0x010 v []) ∧
    ((2#32).getLsbD 1 = true ∧ (3#32).getLsbD 1 = true) ∧ ((1#32).getLsbD 1 = false ∧ (1#32).getLsbD 0 = true) ∧
    ((4#32).getLsbD 1 = false ∧ (4#32).getLsbD 0 = false) ∧ (∀ v, (hosting [.hostWrite 0x010 v]).inflight = none) ∧
    HostReadIsNext (hosting [.hostRead 0x010]) 0x010 [] :=
  ⟨fun _ => rfl, by decide, by decide, by decide, fun _ => rfl, rfl⟩

/-- SoftReset: a cell outside the destination of the command aborted. -/
theorem witness_SoftReset : HostWriteIsNext (busyWith (.freeze 1 0) [.hostWrite 0x010 2#32]) 0x010 2#32 [] ∧
    (busyWith (.freeze 1 0) [.hostWrite 0x010 2#32]).inflight = some (copyOf (.freeze 1 0)) ∧
    decode (copyOf (.freeze 1 0)).word = .ok (.freeze 1 0) ∧ ¬ LaneCell 1 4 (coeffAddr 1 4) ∧
    ¬ WindowCell 0 2 (bufAddr 2) ∧ HostWriteIsNext (hosting [.hostWrite 0x010 2#32]) 0x010 2#32 [] := by
  refine ⟨rfl, rfl, by decide, ?_, ?_, rfl⟩
  · rintro ⟨i, hi, h⟩
    simp only [coeffAddr] at h
    omega
  · rintro ⟨j, hj, h⟩
    simp only [bufAddr] at h
    omega

theorem witness_StatusReadsAndClearsItsFlags : HostReadIsNext (hosting [.hostRead 0x014]) 0x014 [] ∧
    HostWriteIsNext (hosting [.hostWrite 0x014 0xE#32]) 0x014 0xE#32 [] ∧ (0xE#32).getLsbD 1 = true ∧
    (0xE#32).getLsbD 2 = true := ⟨rfl, rfl, by decide, by decide⟩

/-- ErrorAcknowledgeAndOverwrite: the acknowledge, and (only-if clause) the step it takes. -/
theorem witness_ErrorAcknowledge :
    HostWriteIsNext (reject .bank (hosting [.hostWrite 0x014 4#32])) 0x014 4#32 [] ∧ (4#32).getLsbD 2 = true ∧
    (reject .bank (hosting [.hostWrite 0x014 4#32])).err = true ∧
    after (step (reject .bank (hosting [.hostWrite 0x014 4#32]))) true State.err = false := ⟨rfl, by decide, rfl, by decide⟩

theorem witness_ErrorAcknowledgeAndOverwrite : (reject .bank (idleWith 0x00000002#32 [])).err = true ∧
    (reject .bank (idleWith 0x00000002#32 [])).inflight = none ∧
    firstError Config.build (regs 0 4591 2 4) (checks (.freeze 0 0)) = some .paramN ∧
    (busyError (busyWith .nop [.hostWrite 0x020 7#32])).err = true ∧
    (busyError (busyWith .nop [.hostWrite 0x020 7#32])).inflight = some (copyOf .nop) ∧
    HostWriteIsNext (busyError (busyWith .nop [.hostWrite 0x020 7#32])) 0x020 7#32 [] :=
  ⟨rfl, rfl, by decide, rfl, rfl, rfl⟩

/-- BankWindow: the last mapped word, the last word of the window, and the first unmapped coefficient. -/
theorem witness_BankWindow : (∀ x ∈ [(7, 1279), (7, 2047), (0, 1280)], x.1 ≤ 7 ∧ x.2 ≤ 2047) ∧
    (7 < Config.build.nbank ∧ 1279 < Config.build.nmax) ∧ ¬ (0 < Config.build.nbank ∧ 1280 < Config.build.nmax) ∧
    ∀ off : Nat, (hosting [.hostRead off]).inflight = none ∧ HostReadIsNext (hosting [.hostRead off]) off [] ∧
      (hosting [.hostWrite off 5#32]).inflight = none ∧ HostWriteIsNext (hosting [.hostWrite off 5#32]) off 5#32 [] :=
  ⟨by decide, by decide, by decide, fun _ => ⟨rfl, rfl, rfl, rfl⟩⟩

/-- BufferWindow: the last mapped word, the first unmapped one, and the last of the region; the events as in
witness_BankWindow. -/
theorem witness_BufferWindow : (∀ k ∈ [1023, 1024, 16383], 4 * k ≤ 0xFFFC) ∧ 4 * 1023 < Config.build.bufsz ∧
    ¬ 4 * 1024 < Config.build.bufsz ∧ HostReadIsNext (hosting [.hostRead 0x20FFC]) (0x20000 + 4 * 1023) [] ∧
    HostWriteIsNext (hosting [.hostWrite 0x20FFC 5#32]) (0x20000 + 4 * 1023) 5#32 [] ∧
    (hosting [.hostRead 0x20FFC]).inflight = none := ⟨by decide, by decide, by decide, rfl, rfl, rfl⟩

theorem witness_ReservedOffsetsReadZeroAndIgnoreWrites :
    (∀ off ∈ [0x00C, 0x054, 0xFFFC, 0x30000, 0x3FFFC], off % 4 = 0 ∧
      (off = 0x00C ∨ (0x054 ≤ off ∧ off ≤ 0xFFFC) ∨ (0x30000 ≤ off ∧ off < 0x40000))) ∧
    ∀ off : Nat, HostReadIsNext (hosting [.hostRead off]) off [] ∧ HostWriteIsNext (hosting [.hostWrite off 1#32]) off 1#32 [] :=
  ⟨by decide, fun _ => ⟨rfl, rfl⟩⟩

/-- HostReadsHaveNoSideEffect: the ends of the aperture, with and without a command in flight, and a second read. -/
theorem witness_HostReadsHaveNoSideEffect : (∀ off ∈ [0x000, 0x10000, 0x20000, 0x3FFFC], off % 4 = 0 ∧ off < 0x40000) ∧
    ∀ off : Nat, HostReadIsNext (hosting [.hostRead off]) off [] ∧ HostReadIsNext (busyWith .nop [.hostRead off]) off [] ∧
      (hosting [.hostRead off]).inflight = none ∧
      HostReadIsNext { hosting [.hostRead off] with hostReads := [1#32] } off [] :=
  ⟨by decide, fun _ => ⟨rfl, rfl, rfl, rfl⟩⟩

/-- HostWritesWhileBusy: each clause at the ends of its range. -/
theorem witness_HostWritesWhileBusy :
    (∀ off : Nat, ∀ v : Word, (busyWith .nop [.hostWrite off v]).inflight = some (copyOf .nop) ∧
      HostWriteIsNext (busyWith .nop [.hostWrite off v]) off v []) ∧
    ((2#32).getLsbD 1 = true ∧ (1#32).getLsbD 1 = false ∧ (1#32).getLsbD 0 = true ∧ (4#32).getLsbD 0 = false) ∧
    (∀ off ∈ [0x010, 0x014, 0x01C, 0x048, 0x000, 0x00C, 0x018, 0x04C, 0xFFFC, 0x30000, 0x3FFFC], off % 4 = 0) ∧
    (0x1FFFC = 0x10000 + 0x2000 * 7 + 4 * 2047 ∧ 0x1FFFC % 4 = 0) ∧ (0x2FFFC = 0x20000 + 4 * 16383 ∧ 0x2FFFC % 4 = 0) :=
  ⟨fun _ _ => ⟨rfl, rfl⟩, by decide, by decide, by decide, by decide⟩

theorem witness_HostReadsWhileBusy : (∀ off : Nat, (busyWith .nop [.hostRead off]).inflight = some (copyOf .nop) ∧
      HostReadIsNext (busyWith .nop [.hostRead off]) off []) ∧
    (7 ≤ 7 ∧ 1279 ≤ 2047 ∧ 7 < (busyWith .nop []).build.nbank ∧ 1279 < (busyWith .nop []).build.nmax) ∧
    (4 * 1023 ≤ 0xFFFC ∧ 4 * 1023 < (busyWith .nop []).build.bufsz) := ⟨fun _ => ⟨rfl, rfl⟩, by decide, by decide⟩

theorem witness_OnlyAlignedWordAccessesAreDefined : (hosting [.hostOther 8 0x020]).agenda = .hostOther 8 0x020 :: [] ∧
    HostReadIsNext (hosting [.hostRead 0x3FFFE]) 0x3FFFE [] ∧ 0x3FFFE % 4 ≠ 0 ∧
    HostWriteIsNext (hosting [.hostWrite 0x001 1#32]) 0x001 1#32 [] ∧ 0x001 % 4 ≠ 0 ∧
    HostReadIsNext (hosting [.hostRead 0x40000]) 0x40000 [] ∧ 0x40000 % 4 = 0 ∧
    HostWriteIsNext (hosting [.hostWrite 0x40000 1#32]) 0x40000 1#32 [] :=
  ⟨rfl, rfl, by decide, rfl, by decide, rfl, by decide, rfl⟩

theorem witness_InterruptOutput : (busyWith .nop []).inflight = some (copyOf .nop) ∧
    startCommand (idleWith 0x0000000D#32 []) = .next (reject .illegalOp (idleWith 0x0000000D#32 [])) ∧
    (idleWith 0x0000000D#32 []).inflight = none ∧ exec .nop (busyWith .nop []) = .next (finish (busyWith .nop [])) ∧
    (finish (busyWith .nop [])).inflight = none ∧ HostWriteIsNext (hosting [.hostWrite 0x014 2#32]) 0x014 2#32 [] ∧
    (2#32).getLsbD 1 = true ∧ HostWriteIsNext (hosting [.hostWrite 0x010 4#32]) 0x010 4#32 [] ∧
    (4#32).getLsbD 0 = false ∧ (4#32).getLsbD 1 = false :=
  ⟨rfl, rfl, rfl, rfl, rfl, rfl, by decide, rfl, by decide, by decide⟩

theorem witness_ResetValues : (busyWith .nop [.hardReset]).agenda = .hardReset :: [] ∧
    step (busyWith .nop [.hardReset]) = .next (hardReset (busyWith .nop [])) ∧ (idleWith 0 []).inflight = none :=
  ⟨rfl, rfl, rfl⟩

/-- A state with a command in flight meets the invariant. -/
theorem busy_inv (l : List Event) : (busyWith (.freeze 1 0) l).Inv where
  legal := (by decide : Config.build.Legal)
  wf := List.Pairwise.nil
  mapped := fun _ h => absurd h List.not_mem_nil
  accepted := fun _ h => Option.some.inj h ▸ ⟨.freeze 1 0, by decide,
    (by decide : firstError Config.build (regs 4 4591 2 4) (checks (.freeze 1 0)) = none)⟩
  errorCode := ⟨fun _ => rfl, fun _ => rfl⟩
  wmaskValue := .inl rfl
  foutValue := (by decide : (0#32) = ((0#32).setWidth 16).signExtend 32)

theorem witness_EveryStepKeepsTheInvariant : (busyWith (.freeze 1 0) [.hardReset]).Inv ∧
    step (busyWith (.freeze 1 0) [.hardReset]) = .next (hardReset (busyWith (.freeze 1 0) [])) := ⟨busy_inv _, rfl⟩

theorem witness_DefinedEventsNeverStopTheMachine : (busyWith (.freeze 1 0) [.hostWrite 0x3FFFC 1#32]).Inv ∧
    (Event.hostWait 3).Defined ∧ (Event.hostWrite 0x3FFFC 1#32).Defined ∧ (Event.hostRead 0x000).Defined ∧ Event.completion.Defined :=
  ⟨busy_inv _, trivial, ⟨by decide, by decide⟩, ⟨by decide, by decide⟩, trivial⟩

theorem witness_CoefficientsAndBytesChangeOnlyByTheirWriters : (busyWith (.freeze 1 0) []).Inv ∧
    (∃ t, step (busyWith (.freeze 1 0) []) = .next t) ∧
    7 < (busyWith (.freeze 1 0) []).build.nbank ∧ 1279 < (busyWith (.freeze 1 0) []).build.nmax ∧
    4095 < (busyWith (.freeze 1 0) []).build.bufsz :=
  ⟨busy_inv _, ⟨_, (step_completion (.inr (.inl ⟨rfl, rfl⟩))).trans
    (complete_decodes (f := copyOf (.freeze 1 0)) (i := .freeze 1 0) rfl (by decide))⟩, by decide, by decide,
    by decide⟩

/-- FlagsAreSticky: flags set before a completion. -/
theorem witness_FlagsAreSticky :
    exec .nop { busyWith .nop [] with done := true, err := true, ovf := true, errcode := .busy } =
      .next (finish { busyWith .nop [] with done := true, err := true, ovf := true, errcode := .busy }) ∧
    exec .nop { idleWith 0 [] with done := true } = .next (accept { idleWith 0 [] with done := true }) := ⟨rfl, rfl⟩

/-- FlagsAreNeverRead: an idle START that is rejected. -/
theorem witness_FlagsAreNeverRead : (idleWith 0x00000802#32 []).inflight = none ∧
    exec (.freeze 8 0) (idleWith 0x00000802#32 []) = .next (reject .bank (idleWith 0x00000802#32 [])) ∧
    (reject .bank (idleWith 0x00000802#32 [])).inflight = none := ⟨rfl, exec_rejects rfl (by decide), rfl⟩

/-- ErrorsDoNotDependOnSecretValues: two states that differ in TAU0, SCALAR, FIN and a coefficient. -/
theorem witness_ErrorsDoNotDependOnSecretValues :
    let s := idleWith 0x00005608#32 []
    let s' := fill 5 0 [7] { s with params := { s.params with tau0 := 1, scalar := 2, finHi := 3 } }
    s.inflight = none ∧ s'.inflight = none ∧ s'.build = s.build ∧ s'.cmd = s.cmd ∧ s'.params.pn = s.params.pn ∧
    s'.params.pm = s.params.pm ∧ s'.params.pw = s.params.pw ∧ s'.params.pi = s.params.pi ∧
    s'.params.boff = s.params.boff ∧ s'.params.wlen = s.params.wlen ∧ s' ≠ s := by decide

/-- CommandsReadAndWriteOnlyPublicCells: two states that differ in a cell the command does not read. -/
theorem witness_CommandsReadAndWriteOnlyPublicCells :
    let s := fill 0 0 [1, 2, 3, 4] (busyWith (.freeze 1 0) [])
    let s' := fill 2 0 [9] s
    s.inflight = some (copyOf (.freeze 1 0)) ∧ s'.inflight = some (copyOf (.freeze 1 0)) ∧
    firstError s.build (copyOf (.freeze 1 0)).params (checks (.freeze 1 0)) = none ∧
    (∀ x ∈ sourceCells (.freeze 1 0) (copyOf (.freeze 1 0)).params.public, readByte s' x = readByte s x) ∧
    s'.fout = s.fout ∧ s'.wmask = s.wmask ∧ s'.ovf = s.ovf ∧ s' ≠ s ∧
    (coeffAddr 1 0 ∈ destCells (.freeze 1 0) (copyOf (.freeze 1 0)).params.public) := by decide

theorem witness_BusyErrorAndCompletionBothTakeEffect :
    (busyWith (.freeze 1 0) [.hostWrite 0x020 7#32, .completion]).inflight = some (copyOf (.freeze 1 0)) ∧
    decode (copyOf (.freeze 1 0)).word = .ok (.freeze 1 0) ∧
    (busyWith (.freeze 1 0) [.hostWrite 0x020 7#32, .completion]).agenda = .hostWrite 0x020 7#32 :: .completion :: [] := by
  decide

end Sys2Proof.Tests
end

section
/-! SUPPORT. What the checks of an accepted command say of its destination (R80, R104, R114), and that every step keeps
the invariant. -/

namespace Sys2Proof.Machine

/-! ### The destination of a command (R80, R104) -/

section Destination

variable {i : Instr} {bd : Build} {p : Params}

/-- A command that writes a bank checks that bank and N (R114). -/
theorem checks_of_destBank {d : Nat} (hd : destBank i = some d) : .bank d ∈ checks i ∧ .paramN ∈ checks i := by
  cases i <;> cases hd <;> simp [checks]

/-- A command that writes the buffer packs its I elements in the window it checks (R104, R114). -/
theorem checks_of_destWindow {per : Nat} {q : PublicOperands} (hw : destWindow i = some per) :
    .window per ∈ checks i ∧ elementCount i q = q.i := by
  cases i <;> cases hw <;> simp [checks, elementCount]

/-- An accepted command acts on at most N elements (R114). -/
theorem elementCount_le_N (hc : firstError bd p (checks i) = none) : elementCount i p.public ≤ p.N := by
  have codec (h : .paramI ∈ checks i) : p.I ≤ p.N := by
    simpa [Check.passes] using firstError_eq_none.mp hc _ h
  cases i with
  | nop => exact Nat.zero_le _
  | sfreeze => exact Nat.zero_le _
  | freeze d a => exact Nat.le_refl _
  | add d a b r => exact Nat.le_refl _
  | sub d a b r => exact Nat.le_refl _
  | smul d a r => exact Nat.le_refl _
  | mul d a b => exact Nat.le_refl _
  | wcheck d a pol => exact Nat.le_refl _
  | top d a => exact codec (by simp [checks])
  | topenc a => exact codec (by simp [checks])
  | topdec d => exact codec (by simp [checks])
  | inenc a => exact codec (by simp [checks])
  | indec d => exact codec (by simp [checks])

/-- The destination coefficients of an accepted command exist. -/
theorem destBank_in_range {d : Nat} (hc : firstError bd p (checks i) = none) (hd : destBank i = some d) :
    d < bd.nbank ∧ elementCount i p.public ≤ bd.nmax := by
  obtain ⟨hbank, hn⟩ := checks_of_destBank hd
  have hN : 1 ≤ p.N ∧ p.N ≤ bd.nmax := by simpa [Check.passes] using firstError_eq_none.mp hc _ hn
  exact ⟨by simpa [Check.passes] using firstError_eq_none.mp hc _ hbank, (elementCount_le_N hc).trans hN.2⟩

/-- The destination window of an accepted command lies in the buffer. -/
theorem destWindow_in_range {per : Nat} (hc : firstError bd p (checks i) = none) (hw : destWindow i = some per) :
    p.off + windowBytes per (elementCount i p.public) ≤ bd.bufsz := by
  obtain ⟨hmem, hcount⟩ := checks_of_destWindow (q := p.public) hw
  have hfit : p.off + windowBytes per p.I ≤ bd.bufsz := by
    simpa [Check.passes] using firstError_eq_none.mp hc _ hmem
  rw [hcount]
  exact hfit

/-- A destination cell is of a coefficient of D, or of the window at BOFF (R80, R104). -/
theorem destCells_cases {q : PublicOperands} {x : Nat} (hx : x ∈ destCells i q) :
    (∃ d k, destBank i = some d ∧ k < elementCount i q ∧ (x = coeffAddr d k ∨ x = coeffAddr d k + 1)) ∨
    (∃ per j, destWindow i = some per ∧ j < windowBytes per (elementCount i q) ∧ x = bufAddr (q.off + j)) := by
  unfold destCells at hx
  split at hx
  · next d hd =>
    obtain ⟨k, hk, hxk⟩ := mem_bankCells.mp hx
    exact .inl ⟨d, k, hd, hk, hxk⟩
  · next per _ hw =>
    obtain ⟨j, hj, hxj⟩ := mem_windowCells.mp hx
    exact .inr ⟨per, j, hw, hj, hxj⟩
  · cases hx

/-- An accepted command's destination cells exist. -/
theorem destCells_exist (hc : firstError bd p (checks i) = none) {x : Nat} (hx : x ∈ destCells i p.public) :
    CellExists bd x := by
  rcases destCells_cases hx with ⟨d, k, hd, hk, hxk⟩ | ⟨per, j, hw, hj, rfl⟩
  · obtain ⟨hbank, hcount⟩ := destBank_in_range hc hd
    exact .inl ⟨d, k, hbank, hk.trans_le hcount, hxk⟩
  · have hfit := destWindow_in_range hc hw
    have hoff : p.public.off = p.off := rfl
    exact .inr ⟨p.public.off + j, by omega, rfl⟩

end Destination

/-! ### What an effect does to memory and to the two results -/

/-- The memory after an effect: a run of coefficients of D, a run of bytes at BOFF, or as before (R80, R104). -/
theorem commandEffect_mem_cases (i : Instr) (p : Params) (s : State) :
    (∃ d v, destBank i = some d ∧
      (commandEffect i p s).mem = (writeCoeffs d v (elementCount i p.public) s).mem) ∨
    (∃ per v, destWindow i = some per ∧
      (commandEffect i p s).mem = (writeBufs p.off v (windowBytes per (elementCount i p.public)) s).mem) ∨
    (commandEffect i p s).mem = s.mem := by
  cases i with
  | nop => exact .inr (.inr rfl)
  | sfreeze => exact .inr (.inr rfl)
  | freeze d a => exact .inl ⟨d, _, rfl, rfl⟩
  | add d a b r => exact .inl ⟨d, _, rfl, rfl⟩
  | sub d a b r => exact .inl ⟨d, _, rfl, rfl⟩
  | smul d a r => exact .inl ⟨d, _, rfl, rfl⟩
  | mul d a b => exact .inl ⟨d, _, rfl, rfl⟩
  | wcheck d a pol => exact .inl ⟨d, _, rfl, rfl⟩
  | top d a => exact .inl ⟨d, _, rfl, rfl⟩
  | topenc a => exact .inr (.inl ⟨2, _, rfl, rfl⟩)
  | topdec d => exact .inl ⟨d, _, rfl, rfl⟩
  | inenc a => exact .inr (.inl ⟨8, _, rfl, rfl⟩)
  | indec d => exact .inl ⟨d, _, rfl, rfl⟩

/-- The effect of an accepted command lists only cells that exist. -/
theorem commandEffect_mapped {i : Instr} {p : Params} {s : State} (hc : firstError s.build p (checks i) = none)
    (h : Memory.Mapped s.build s.mem) : Memory.Mapped s.build (commandEffect i p s).mem := by
  rcases commandEffect_mem_cases i p s with ⟨d, v, hd, hm⟩ | ⟨per, v, hw, hm⟩ | hm <;> rw [hm]
  · obtain ⟨hbank, hcount⟩ := destBank_in_range hc hd
    exact writeCoeffs_mapped v s hbank hcount h
  · exact writeBufs_mapped v s (destWindow_in_range hc hw) h
  · exact h

/-- Only WCHECK sets WMASK, to one of its two values (R38, R101). -/
theorem commandEffect_wmask_cases (i : Instr) (p : Params) (s : State) :
    (commandEffect i p s).wmask = s.wmask ∨ ∃ mask, (commandEffect i p s).wmask = wmaskWord mask := by
  cases i with
  | wcheck d a pol => exact .inr ⟨_, rfl⟩
  | _ => exact .inl (by simp [commandEffect])

/-- Only SFREEZE sets FOUT (R37, R89). -/
theorem commandEffect_fout_cases (i : Instr) (p : Params) (s : State) :
    (commandEffect i p s).fout = s.fout ∨ (commandEffect i p s).fout = sfreezeResult p := by
  cases i with
  | sfreeze => exact .inr rfl
  | _ => exact .inl (by simp [commandEffect])

theorem wmaskWord_cases (mask : Half) : wmaskWord mask = 0x00000000#32 ∨ wmaskWord mask = 0xFFFFFFFF#32 := by
  unfold wmaskWord
  split
  · exact .inr rfl
  · exact .inl rfl

/-- What SFREEZE leaves in FOUT is a 16-bit value sign-extended (R37). -/
theorem sfreezeResult_signExtended (p : Params) : sfreezeResult p = ((sfreezeResult p).setWidth 16).signExtend 32 := by
  have hlow (v : Half) : (v.signExtend 32).setWidth 16 = v := by
    ext k hk
    simp [BitVec.getElem_signExtend, hk, show k < 32 by omega]
  rw [sfreezeResult, hlow]

/-! ### The invariant under each operation -/

theorem abort_idle {s : State} (hf : s.inflight = none) : abort s = s := by simp [abort, hf]

theorem abort_inFlight {s : State} {f : InFlight} (hf : s.inflight = some f) :
    abort s = scramble s.draws (inFlightCells f) { s with draws := s.draws + 1 } := by
  simp [abort, hf]

/-- A host write of STATUS, field by field (R24, R26). -/
theorem writeStatus_eq (v : Word) (s : State) :
    writeStatus v s = { s with
      done := if v.getLsbD 1 then false else s.done
      err := if v.getLsbD 2 then false else s.err
      errcode := if v.getLsbD 2 then .none else s.errcode
      ovf := if v.getLsbD 3 then false else s.ovf } := by
  unfold writeStatus
  cases v.getLsbD 1 <;> cases v.getLsbD 2 <;> cases v.getLsbD 3 <;> rfl

namespace State.Inv

variable {s t : State}

/-- The invariant looks at seven fields only. -/
theorem congr (h : s.Inv) (hb : t.build = s.build) (hm : t.mem = s.mem) (hf : t.inflight = s.inflight)
    (he : t.err = s.err) (hc : t.errcode = s.errcode) (hw : t.wmask = s.wmask) (ho : t.fout = s.fout) : t.Inv where
  legal := by rw [hb]; exact h.legal
  wf := by rw [hm]; exact h.wf
  mapped := by rw [hb, hm]; exact h.mapped
  accepted := by rw [hb, hf]; exact h.accepted
  errorCode := by rw [he, hc]; exact h.errorCode
  wmaskValue := by rw [hw]; exact h.wmaskValue
  foutValue := by rw [ho]; exact h.foutValue

theorem setAgenda (h : s.Inv) (rest : List Event) : State.Inv { s with agenda := rest } :=
  h.congr rfl rfl rfl rfl rfl rfl rfl

/-- A write of a cell that exists keeps the invariant. -/
theorem writeByte (h : s.Inv) {a : Nat} (v : Byte) (ha : CellExists s.build a) : (writeByte a v s).Inv :=
  { h with wf := Memory.set_wf a v h.wf, mapped := Memory.set_mapped v ha h.mapped }

theorem writeCoeff (h : s.Inv) {b i : Nat} (v : Half) (hb : b < s.build.nbank) (hi : i < s.build.nmax) :
    (writeCoeff b i v s).Inv :=
  (h.writeByte _ (.inl ⟨b, i, hb, hi, .inl rfl⟩)).writeByte _ (.inl ⟨b, i, hb, hi, .inr rfl⟩)

theorem writeBufWord (h : s.Inv) {k : Nat} (v : Word) (hk : k < s.build.bufsz) (ha : k % 4 = 0) :
    (writeBufWord k v s).Inv := by
  have hfit : k + 4 ≤ s.build.bufsz := by
    obtain ⟨-, -, -, -, -, -, hsize⟩ := h.legal
    omega
  exact { h with wf := writeBufs_wf _ _ _ _ h.wf, mapped := writeBufs_mapped _ _ hfit h.mapped }

theorem scramble (h : s.Inv) (draw : Nat) {cells : List Nat} (hc : ∀ a ∈ cells, CellExists s.build a) :
    (scramble draw cells s).Inv := by
  induction cells generalizing s with
  | nil => exact h
  | cons a rest ih =>
    exact ih (h.writeByte _ (hc a List.mem_cons_self)) fun b hb => hc b (List.mem_cons_of_mem a hb)

/-- A reported code keeps ERR and CODE together (R113). -/
theorem reject (h : s.Inv) {code : ErrCode} (hc : code ≠ .none) : (reject code s).Inv :=
  { h with errorCode := by simp [hc] }

theorem busyError (h : s.Inv) : (busyError s).Inv := { h with errorCode := by simp }

theorem acknowledge (h : s.Inv) : (acknowledge s).Inv := { h with errorCode := by simp }

/-- A command that passed every check is put in flight (R75). -/
theorem accept (h : s.Inv) {i : Instr} (hd : decode s.cmd = .ok i)
    (hc : firstError s.build s.params (checks i) = none) : (accept s).Inv :=
  { h with accepted := fun f hf => by cases hf; exact ⟨i, hd, hc⟩ }

/-- The checks that the command in flight passed. -/
theorem checked (h : s.Inv) {f : InFlight} {i : Instr} (hf : s.inflight = some f) (hd : decode f.word = .ok i) :
    firstError s.build f.params (checks i) = none := by
  obtain ⟨j, hj, hc⟩ := h.accepted f hf
  cases hj.symm.trans hd
  exact hc

theorem finish_commandEffect (h : s.Inv) {f : InFlight} {i : Instr} (hf : s.inflight = some f)
    (hd : decode f.word = .ok i) : (finish (commandEffect i f.params s)).Inv where
  legal := by simpa using h.legal
  wf := commandEffect_wf i f.params s h.wf
  mapped := by simpa [Memory.Mapped] using commandEffect_mapped (h.checked hf hd) h.mapped
  accepted := by simp
  errorCode := by simpa using h.errorCode
  wmaskValue := by
    rcases commandEffect_wmask_cases i f.params s with hw | ⟨mask, hw⟩ <;> simp only [finish_wmask, hw]
    · exact h.wmaskValue
    · exact wmaskWord_cases mask
  foutValue := by
    rcases commandEffect_fout_cases i f.params s with ho | ho <;> simp only [finish_fout, ho]
    · exact h.foutValue
    · exact sfreezeResult_signExtended f.params

/-- The cells an abort leaves unspecified exist (R130). -/
theorem inFlightCells_exist (h : s.Inv) {f : InFlight} (hf : s.inflight = some f) :
    ∀ a ∈ inFlightCells f, CellExists s.build a := by
  obtain ⟨i, hd, hc⟩ := h.accepted f hf
  simp only [inFlightCells, hd]
  exact fun a ha => destCells_exist hc ha

theorem abort (h : s.Inv) : (abort s).Inv := by
  rcases Option.eq_none_or_eq_some s.inflight with hf | ⟨f, hf⟩
  · rwa [abort_idle hf]
  · have hdraw : State.Inv { s with draws := s.draws + 1 } := h.congr rfl rfl rfl rfl rfl rfl rfl
    rw [abort_inFlight hf]
    exact hdraw.scramble s.draws (h.inFlightCells_exist hf)

/-- Reset values meet the invariant, whatever the memory lists of cells that exist (R47). -/
theorem resetRegisters (h : s.Inv) : (resetRegisters s).Inv :=
  { h with
    accepted := by simp
    errorCode := by simp
    wmaskValue := .inl rfl
    foutValue := by simp }

theorem softReset (h : s.Inv) : (softReset s).Inv := h.abort.resetRegisters

theorem hardReset (h : s.Inv) : (hardReset s).Inv :=
  { h.resetRegisters with wf := List.Pairwise.nil, mapped := by simp }

theorem startCommand (h : s.Inv) (hf : s.inflight = none) (ht : startCommand s = .next t) : t.Inv := by
  rcases startCommand_cases hf ht with ⟨code, hc, -, rfl⟩ | ⟨i, hd, hc, rfl⟩
  · exact h.reject hc
  · exact h.accept hd hc

/-- A write of STATUS clears ERR and CODE together or leaves both (R24, R117). -/
theorem writeStatus (h : s.Inv) (v : Word) : (writeStatus v s).Inv := by
  rw [writeStatus_eq]
  exact { h with errorCode := by cases v.getLsbD 2 <;> simp [h.errorCode] }

/-- A store to CMD or a parameter register touches no field of the invariant: the copy in flight stays (R75). -/
theorem storeReg (h : s.Inv) (r : Reg) (v : Word) : (storeReg r v s).Inv := by
  cases r <;> exact h.congr rfl rfl rfl rfl rfl rfl rfl

/-- A host read changes what the host has read, and the free values drawn, only. -/
theorem readTarget (h : s.Inv) (tg : Target) : (readTarget tg s).Inv := by
  have hanswer (w : Word) : (answer w s).Inv := h.congr rfl rfl rfl rfl rfl rfl rfl
  have hbusy : (answerBusy s).Inv := h.congr rfl rfl rfl rfl rfl rfl rfl
  have hmemory (w : Word) : State.Inv (if s.busy then answerBusy s else answer w s) := by
    split
    · exact hbusy
    · exact hanswer w
  cases tg with
  | register r => exact hanswer _
  | coefficient b i => exact hmemory _
  | bufferWord k => exact hmemory _
  | reserved => exact hanswer _

theorem writeTarget (h : s.Inv) {off : Nat} {v : Word} (ha : off % 4 = 0)
    (ht : writeTarget (target s.build off) v s = .next t) : t.Inv := by
  have hie : State.Inv { s with ie := v.getLsbD 2 } := h.congr rfl rfl rfl rfl rfl rfl rfl
  rcases writeTarget_cases ht with ⟨-, -, rfl⟩ | ⟨-, -, -, hf, hstart⟩ | ⟨-, -, -, rfl⟩ | ⟨-, -, -, -, rfl⟩ | ⟨-, rfl⟩ |
    ⟨r, -, -, -, rfl⟩ | ⟨b, i, htg, -, rfl⟩ | ⟨k, htg, -, rfl⟩ | ⟨-, rfl⟩ | rfl
  · exact h.softReset
  · exact hie.startCommand hf hstart
  · exact hie
  · exact hie.busyError
  · exact h.writeStatus v
  · exact h.storeReg r v
  · obtain ⟨hb, hi, -⟩ := target_eq_coefficient ha htg
    exact h.writeCoeff _ hb hi
  · obtain ⟨hk, hk4, -⟩ := target_eq_bufferWord ha htg
    exact h.writeBufWord v hk hk4
  · exact h.busyError
  · exact h

theorem complete (h : s.Inv) (ht : complete s = .next t) : t.Inv := by
  rcases complete_cases ht with ⟨-, rfl⟩ | ⟨f, i, hf, hd, rfl⟩
  · exact h
  · exact h.finish_commandEffect hf hd

theorem step (h : s.Inv) (ht : step s = .next t) : t.Inv := by
  rcases step_cases ht with ⟨rest, -, hc⟩ | ⟨off, rest, -, -, -, rfl⟩ | ⟨off, v, rest, -, ha, -, hw⟩ |
    ⟨k, rest, -, -, rfl⟩ | ⟨k, rest, -, -, rfl⟩ | ⟨rest, -, rfl⟩
  · exact (h.setAgenda rest).complete hc
  · exact (h.setAgenda rest).readTarget _
  · exact (h.setAgenda rest).writeTarget ha hw
  · exact h.congr rfl rfl rfl rfl rfl rfl rfl
  · exact h.congr rfl rfl rfl rfl rfl rfl rfl
  · exact (h.setAgenda rest).hardReset

end State.Inv

/-- Settles O52: whatever event the step takes, the operation it comes to keeps the invariant. -/
theorem everyStepKeepsTheInvariant : Obligations.EveryStepKeepsTheInvariant := fun _ _ h ht => h.step ht

/-- Settles O53: memory is empty, nothing is in flight and every register is 0. -/
theorem resetMeetsTheInvariant : Obligations.ResetMeetsTheInvariant where
  legal := by decide
  wf := List.Pairwise.nil
  mapped := by simp [State.reset]
  accepted := by simp [State.reset]
  errorCode := by simp [State.reset]
  wmaskValue := .inl rfl
  foutValue := by simp [State.reset]

end Sys2Proof.Machine
end

section
/-! SUPPORT. Which step changes which cell (R41, R43), and what the flags can change (R24, R25). -/

namespace Sys2Proof.Machine

/-! ### Cells a step can change -/

theorem mem_inFlightCells {f : InFlight} {x : Nat} :
    x ∈ inFlightCells f ↔ ∃ c, decode f.word = .ok c ∧ x ∈ destCells c f.params.public := by
  unfold inFlightCells
  split
  · next i hd => simp [hd]
  · next e hd => simp [hd]

@[simp] theorem readByte_readTarget (tg : Target) (s : State) (x : Nat) :
    readByte (readTarget tg s) x = readByte s x := by
  have hmemory (w : Word) : readByte (if s.busy then answerBusy s else answer w s) x = readByte s x := by
    split <;> rfl
  cases tg with
  | register r => rfl
  | coefficient b i => exact hmemory _
  | bufferWord k => exact hmemory _
  | reserved => rfl

@[simp] theorem readByte_writeStatus (v : Word) (s : State) (x : Nat) :
    readByte (writeStatus v s) x = readByte s x := by
  rw [writeStatus_eq]
  rfl

@[simp] theorem readByte_storeReg (r : Reg) (v : Word) (s : State) (x : Nat) :
    readByte (storeReg r v s) x = readByte s x := by
  cases r <;> rfl

/-- A soft reset changes only destination cells of the command it aborts (R130). -/
theorem readByte_softReset_cases (s : State) (x : Nat) :
    readByte (softReset s) x = readByte s x ∨ ∃ f, s.inflight = some f ∧ x ∈ inFlightCells f := by
  change readByte (abort s) x = _ ∨ _
  rcases Option.eq_none_or_eq_some s.inflight with hf | ⟨f, hf⟩
  · rw [abort_idle hf]
    exact .inl rfl
  · rw [abort_inFlight hf]
    by_cases hx : x ∈ inFlightCells f
    · exact .inr ⟨f, hf, hx⟩
    · exact .inl (readByte_scramble_other s.draws (inFlightCells f) { s with draws := s.draws + 1 } hx)

/-- A completion changes only destination cells of the command in flight (R76, R80). -/
theorem readByte_complete_cases {s t : State} (h : complete s = .next t) (x : Nat) :
    readByte t x = readByte s x ∨ ∃ f, s.inflight = some f ∧ x ∈ inFlightCells f := by
  rcases complete_cases h with ⟨-, rfl⟩ | ⟨f, i, hf, hd, rfl⟩
  · exact .inl rfl
  · by_cases hx : x ∈ destCells i f.params.public
    · exact .inr ⟨f, hf, mem_inFlightCells.mpr ⟨i, hd, hx⟩⟩
    · exact .inl (readByte_commandEffect_other hx)

/-- A host write changes only the cells of its own word, with none in flight, or those of the command it aborts. -/
theorem readByte_writeTarget_cases {s t : State} {off : Nat} {v : Word} (ha : off % 4 = 0)
    (ht : writeTarget (target s.build off) v s = .next t) (x : Nat) :
    readByte t x = readByte s x ∨ (s.inflight = none ∧ off = 4 * (x / 4)) ∨
    (off = 0x010 ∧ v.getLsbD 1 = true ∧ ∃ f, s.inflight = some f ∧ x ∈ inFlightCells f) := by
  rcases writeTarget_cases ht with ⟨htg, hsrst, rfl⟩ | ⟨-, -, -, hf, hstart⟩ | ⟨-, -, -, rfl⟩ | ⟨-, -, -, -, rfl⟩ |
    ⟨-, rfl⟩ | ⟨r, -, -, -, rfl⟩ | ⟨b, i, htg, hf, rfl⟩ | ⟨k, htg, hf, rfl⟩ | ⟨-, rfl⟩ | rfl
  · rcases readByte_softReset_cases s x with hx | hx
    · exact .inl hx
    · exact .inr (.inr ⟨target_eq_register htg, hsrst, hx⟩)
  · rcases startCommand_cases (s := { s with ie := v.getLsbD 2 }) hf hstart with ⟨code, -, -, rfl⟩ | ⟨i, -, -, rfl⟩
    · exact .inl rfl
    · exact .inl rfl
  · exact .inl rfl
  · exact .inl rfl
  · exact .inl (readByte_writeStatus v s x)
  · exact .inl (readByte_storeReg r v s x)
  · obtain ⟨-, -, hoff⟩ := target_eq_coefficient ha htg
    by_cases hx : x = coeffAddr b i ∨ x = coeffAddr b i + 1
    · exact .inr (.inl ⟨hf, by omega⟩)
    · exact .inl (readByte_writeCoeff_other _ s (not_or.mp hx))
  · obtain ⟨-, -, hoff⟩ := target_eq_bufferWord ha htg
    by_cases hx : off = 4 * (x / 4)
    · exact .inr (.inl ⟨hf, hx⟩)
    · refine .inl (readByte_writeBufs_other _ 4 s fun j hj hxj => hx ?_)
      simp only [bufAddr] at hoff hxj
      omega
  · exact .inl rfl
  · exact .inl rfl

/-- A step changes a cell only by the host write of its word, the completion or the abort of a command whose
destination covers it, or a hardware reset (R41, R43, R129, R130). -/
theorem readByte_step_cases {s t : State} (h : step s = .next t) (x : Nat) :
    readByte t x = readByte s x ∨
    (s.inflight = none ∧ ∃ v rest, HostWriteIsNext s (4 * (x / 4)) v rest) ∨
    (∃ f rest, s.inflight = some f ∧ CompletionIsNext s rest ∧ x ∈ inFlightCells f) ∨
    (∃ f v rest, s.inflight = some f ∧ HostWriteIsNext s 0x010 v rest ∧ v.getLsbD 1 = true ∧ x ∈ inFlightCells f) ∨
    ∃ rest, s.agenda = .hardReset :: rest := by
  rcases step_cases h with ⟨rest, hnext, hc⟩ | ⟨off, rest, -, -, -, rfl⟩ | ⟨off, v, rest, hnext, ha, -, hw⟩ |
    ⟨k, rest, -, -, rfl⟩ | ⟨k, rest, -, -, rfl⟩ | ⟨rest, hnext, -⟩
  · rcases readByte_complete_cases hc x with hx | ⟨f, hf, hx⟩
    · exact .inl hx
    · exact .inr (.inr (.inl ⟨f, rest, hf, hnext, hx⟩))
  · exact .inl (readByte_readTarget _ _ x)
  · rcases readByte_writeTarget_cases (s := { s with agenda := rest }) ha hw x with
      hx | ⟨hf, rfl⟩ | ⟨rfl, hsrst, f, hf, hx⟩
    · exact .inl hx
    · exact .inr (.inl ⟨hf, v, rest, hnext⟩)
    · exact .inr (.inr (.inr (.inl ⟨f, v, rest, hf, hnext, hsrst, hx⟩)))
  · exact .inl rfl
  · exact .inl rfl
  · exact .inr (.inr (.inr (.inr ⟨rest, hnext⟩)))

/-- A coefficient that changed has a byte that changed. -/
theorem exists_byte_of_readCoeff_ne {s t : State} {b i : Nat} (h : readCoeff t b i ≠ readCoeff s b i) :
    ∃ x, (x = coeffAddr b i ∨ x = coeffAddr b i + 1) ∧ readByte t x ≠ readByte s x := by
  by_contra hsame
  push Not at hsame
  exact h (by simp only [readCoeff, hsame _ (.inl rfl), hsame _ (.inr rfl)])

/-- Under the invariant the command in flight writes a coefficient only as one of the lanes of its D (R80). -/
theorem State.Inv.lane_of_inFlightCells {s : State} {f : InFlight} {b i x : Nat} (h : s.Inv)
    (hf : s.inflight = some f) (hb : b < s.build.nbank) (hi : i < s.build.nmax)
    (hx : x = coeffAddr b i ∨ x = coeffAddr b i + 1) (hmem : x ∈ inFlightCells f) :
    ∃ c, decode f.word = .ok c ∧ destBank c = some b ∧ i < elementCount c f.params.public := by
  obtain ⟨-, hnmax, -, hnbank, -, -, -⟩ := h.legal
  obtain ⟨c, hd, hc⟩ := mem_inFlightCells.mp hmem
  refine ⟨c, hd, ?_⟩
  rcases destCells_cases hc with ⟨d, k, hdest, hk, hxk⟩ | ⟨per, j, -, -, hxj⟩
  · have hcount := (destBank_in_range (h.checked hf hd) hdest).2
    have haddr : coeffAddr b i = coeffAddr d k := by simp only [coeffAddr] at hx hxk ⊢; omega
    obtain ⟨rfl, rfl⟩ := coeffAddr_inj (by omega) (by omega) haddr
    exact ⟨hdest, hk⟩
  · have := coeffAddr_lt_bufAddr (b := b) (i := i) (k := f.params.public.off + j) (by omega) (by omega)
    omega

/-- Only TOPENC and INENC write the buffer (R107, R110). -/
theorem destWindow_eq_some {c : Instr} {per : Nat} (h : destWindow c = some per) :
    (∃ a, c = .topenc a ∧ per = 2) ∨ ∃ a, c = .inenc a ∧ per = 8 := by
  cases c <;> cases h <;> simp

/-- Under the invariant the command in flight writes a buffer byte only in the window of a TOPENC or an INENC (R104). -/
theorem State.Inv.window_of_inFlightCells {s : State} {f : InFlight} {k : Nat} (h : s.Inv)
    (hf : s.inflight = some f) (hmem : bufAddr k ∈ inFlightCells f) :
    ∃ a nb, (decode f.word = .ok (.topenc a) ∧ nb = (f.params.pi.toNat + 1) / 2 ∨
        decode f.word = .ok (.inenc a) ∧ nb = (f.params.pi.toNat + 7) / 8) ∧
      f.params.boff.toNat ≤ k ∧ k < f.params.boff.toNat + nb := by
  obtain ⟨-, hnmax, -, hnbank, -, -, -⟩ := h.legal
  obtain ⟨c, hd, hc⟩ := mem_inFlightCells.mp hmem
  rcases destCells_cases hc with ⟨d, i, hdest, hi, hxi⟩ | ⟨per, j, hwin, hj, hxj⟩
  · obtain ⟨hbank, hcount⟩ := destBank_in_range (h.checked hf hd) hdest
    have := coeffAddr_lt_bufAddr (b := d) (i := i) (k := k) (by omega) (by omega)
    omega
  · have hk : k = f.params.boff.toNat + j := Nat.add_left_cancel hxj
    rcases destWindow_eq_some hwin with ⟨a, rfl, rfl⟩ | ⟨a, rfl, rfl⟩
    · exact ⟨a, _, .inl ⟨hd, rfl⟩, hk ▸ Nat.le_add_right _ _, hk ▸ Nat.add_lt_add_left hj _⟩
    · exact ⟨a, _, .inr ⟨hd, rfl⟩, hk ▸ Nat.le_add_right _ _, hk ▸ Nat.add_lt_add_left hj _⟩

/-- Settles O55, from the law of one cell: a coefficient is two cells of one word, a buffer byte one. -/
theorem coefficientsAndBytesChangeOnlyByTheirWriters : Obligations.CoefficientsAndBytesChangeOnlyByTheirWriters := by
  intro s t hinv hstep
  refine ⟨fun b i hb hi => ?_, fun k _ => ?_⟩
  · by_cases hsame : readCoeff t b i = readCoeff s b i
    · exact .inl hsame
    obtain ⟨x, hx, hne⟩ := exists_byte_of_readCoeff_ne hsame
    have hword : 4 * (x / 4) = 0x10000 + 0x2000 * b + 4 * i := by simp only [coeffAddr] at hx; omega
    rcases readByte_step_cases hstep x with heq | ⟨hf, v, rest, hnext⟩ | ⟨f, rest, hf, hnext, hmem⟩ |
      ⟨f, v, rest, hf, hnext, hsrst, hmem⟩ | hreset
    · exact absurd heq hne
    · exact .inr (.inl ⟨hf, v, rest, hword ▸ hnext⟩)
    · obtain ⟨c, hd, hlane⟩ := hinv.lane_of_inFlightCells hf hb hi hx hmem
      exact .inr (.inr (.inl ⟨f, c, rest, hf, hnext, hd, hlane⟩))
    · obtain ⟨c, hd, hlane⟩ := hinv.lane_of_inFlightCells hf hb hi hx hmem
      exact .inr (.inr (.inr (.inl ⟨f, c, v, rest, hf, hnext, hsrst, hd, hlane⟩)))
    · exact .inr (.inr (.inr (.inr hreset)))
  · have hword : 4 * (bufAddr k / 4) = 0x20000 + 4 * (k / 4) := by simp only [bufAddr]; omega
    rcases readByte_step_cases hstep (bufAddr k) with heq | ⟨hf, v, rest, hnext⟩ | ⟨f, rest, hf, hnext, hmem⟩ |
      ⟨f, v, rest, hf, hnext, hsrst, hmem⟩ | hreset
    · exact .inl heq
    · exact .inr (.inl ⟨hf, v, rest, hword ▸ hnext⟩)
    · obtain ⟨a, nb, hwrites⟩ := hinv.window_of_inFlightCells hf hmem
      exact .inr (.inr (.inl ⟨f, a, nb, rest, hf, hnext, hwrites⟩))
    · obtain ⟨a, nb, hwrites⟩ := hinv.window_of_inFlightCells hf hmem
      exact .inr (.inr (.inr (.inl ⟨f, a, nb, v, rest, hf, hnext, hsrst, hwrites⟩)))
    · exact .inr (.inr (.inr (.inr hreset)))

/-! ### The sticky flags (R24, R25) -/

/-- OVF is set by an effect and never cleared (R24, R92). -/
theorem commandEffect_ovf_of_set (i : Instr) (p : Params) {s : State} (h : s.ovf = true) :
    (commandEffect i p s).ovf = true := by
  have lanes (d : Nat) (r : Bool) (e : Nat → Int) : (writeLanes d r e p s).ovf = true := by simp [ovfAfter, h]
  cases i with
  | add d a b r => exact lanes d r _
  | sub d a b r => exact lanes d r _
  | smul d a r => exact lanes d r _
  | _ => simpa [commandEffect] using h

/-- Settles O56, phase by phase: completion, rejection, acceptance. -/
theorem flagsAreSticky : Obligations.FlagsAreSticky := by
  intro i s t h
  rcases exec_cases h with ⟨f, -, rfl⟩ | ⟨code, hf, -, rfl⟩ | ⟨-, -, rfl⟩
  · exact ⟨fun _ => rfl, by simp, commandEffect_ovf_of_set i f.params, by simp⟩
  · exact ⟨fun _ => rfl, fun _ => rfl, id, by simp [hf]⟩
  · exact ⟨id, id, id, by simp⟩

/-- The memory after a run of coefficient writes depends on the memory before only. -/
theorem writeCoeffs_mem_congr {s t : State} (hm : t.mem = s.mem) (b : Nat) (v : Nat → Half) (n : Nat) :
    (writeCoeffs b v n t).mem = (writeCoeffs b v n s).mem := by
  induction n with
  | zero => exact hm
  | succ n ih => simp only [writeCoeffs, writeCoeff, writeByte_mem, ih]

theorem writeBufs_mem_congr {s t : State} (hm : t.mem = s.mem) (off : Nat) (v : Nat → Byte) (n : Nat) :
    (writeBufs off v n t).mem = (writeBufs off v n s).mem := by
  induction n with
  | zero => exact hm
  | succ n ih => simp only [writeBufs, writeBuf_mem, ih]

section Effect

variable {s t : State} (hm : t.mem = s.mem) (he : t.epoch = s.epoch)
include hm he

theorem readCoeff_funext : readCoeff t = readCoeff s := funext₂ (readCoeff_congr hm he)

/-- An effect computes the memory from the memory and the free values of unwritten cells only. -/
theorem commandEffect_mem_congr (i : Instr) (p : Params) : (commandEffect i p t).mem = (commandEffect i p s).mem := by
  have hcoeff : readCoeff t = readCoeff s := readCoeff_funext hm he
  have hint : coeff t = coeff s := by funext b k; simp only [coeff, hcoeff]
  have hbuf : readBuf t = readBuf s := funext fun o => readByte_congr hm he (bufAddr o)
  have hadd (a b : Nat) : addLane t a b = addLane s a b := by funext k; simp only [addLane, hint]
  have hsub (a b : Nat) : subLane t a b = subLane s a b := by funext k; simp only [subLane, hint]
  have hsmul (a : Nat) : smulLane p t a = smulLane p s a := by funext k; simp only [smulLane, hint]
  cases i <;> simp only [commandEffect, writeLanes_mem, hcoeff, hint, hbuf, hadd, hsub, hsmul, hm,
    writeCoeffs_mem_congr hm, writeBufs_mem_congr hm]

theorem commandEffect_wmask_congr (hw : t.wmask = s.wmask) (i : Instr) (p : Params) :
    (commandEffect i p t).wmask = (commandEffect i p s).wmask := by
  cases i with
  | wcheck d a pol => simp only [commandEffect, readCoeff_funext hm he]
  | _ => simp [commandEffect, hw]

end Effect

theorem commandEffect_fout_congr {s t : State} (ho : t.fout = s.fout) (i : Instr) (p : Params) :
    (commandEffect i p t).fout = (commandEffect i p s).fout := by
  cases i <;> simp [commandEffect, ho]

/-- Settles O57, phase by phase: the effect reads no flag, and no check does. -/
theorem flagsAreNeverRead : Obligations.FlagsAreNeverRead := by
  intro i s dn er ov code
  let u : State := { s with done := dn, err := er, ovf := ov, errcode := code }
  rcases Option.eq_none_or_eq_some s.inflight with hf | ⟨f, hf⟩
  · rcases Option.eq_none_or_eq_some (firstError s.build s.params (checks i)) with hc | ⟨reported, hc⟩
    · exact ⟨_, _, exec_accepts hf hc, exec_accepts (s := u) hf hc, rfl, rfl, rfl, rfl, by simp, by simp⟩
    · exact ⟨_, _, exec_rejects hf hc, exec_rejects (s := u) hf hc, rfl, rfl, rfl, rfl, fun _ => ⟨rfl, rfl⟩,
        fun _ _ => ⟨rfl, rfl, rfl⟩⟩
  · have hmem := commandEffect_mem_congr (s := s) (t := u) rfl rfl i f.params
    have hfout := commandEffect_fout_congr (s := s) (t := u) rfl i f.params
    have hwmask := commandEffect_wmask_congr (s := s) (t := u) rfl rfl rfl i f.params
    exact ⟨_, _, exec_completes i hf, exec_completes (s := u) i hf, hmem, hfout, hwmask, rfl,
      fun _ => ⟨rfl, rfl⟩, by simp [hf]⟩

end Sys2Proof.Machine
end

section
/-! SUPPORT. The register space at the host port (R18 to R39): reads, stores, resets. -/

namespace Sys2Proof.Machine

/-- A host read of a register returns what it reads, and takes the event (R18). -/
theorem step_readReg {s : State} {r : Reg} {rest : List Event} (h : HostReadIsNext s r.offset rest) :
    step s = .next { s with agenda := rest, hostReads := readReg r s :: s.hostReads } := by
  have hlt := r.offset_lt
  rw [step_read h r.offset_aligned (by omega), target_register]
  cases r <;> rfl

/-- With no command in flight, a host write of CMD or a parameter register is its store (R18, R57). -/
theorem writeTarget_locked {r : Reg} {s : State} (hl : r.locked = true) (hf : s.inflight = none) (v : Word) :
    writeTarget (.register r) v s = .next (storeReg r v s) := by
  have hguard : guarded (storeReg r v) s = storeReg r v s := by simp [guarded, State.busy, hf]
  cases r <;> cases hl <;> exact congrArg Host.Outcome.next hguard

/-- A write of CMD or a parameter register and a read of it, with no command in flight. -/
theorem run_write_read {s : State} {r : Reg} {v : Word} {rest : List Event} (hl : r.locked = true)
    (hf : s.inflight = none) (h : s.agenda = .hostWrite r.offset v :: .hostRead r.offset :: rest) :
    Host.Core.run Sys2Proof.core 2 s =
      .next { storeReg r v s with agenda := rest, hostReads := readReg r (storeReg r v s) :: s.hostReads } := by
  have hlt := r.offset_lt
  have hwrite : step s = .next (storeReg r v { s with agenda := .hostRead r.offset :: rest }) := by
    rw [step_write h r.offset_aligned (by omega), target_register]
    exact writeTarget_locked (s := { s with agenda := .hostRead r.offset :: rest }) hl hf v
  have hnext : HostReadIsNext (storeReg r v { s with agenda := .hostRead r.offset :: rest }) r.offset rest := by
    cases r <;> rfl
  rw [run_two hwrite, step_readReg hnext]
  cases r <;> rfl

/-- Settles O38: one write and one read for each register a host may store. -/
theorem registersReadBackWhatIsWritten : Obligations.RegistersReadBackWhatIsWritten := by
  refine ⟨fun s v rest hf => ?_, rfl⟩
  have hhalf : v.extractLsb' 0 16 = v.setWidth 16 := (BitVec.setWidth_eq_extractLsb' (by decide)).symm
  have hlow : v &&& 0xFFFF#32 = (v.setWidth 16).setWidth 32 := by
    apply BitVec.eq_of_toNat_eq
    rw [BitVec.toNat_and, BitVec.toNat_setWidth, BitVec.toNat_setWidth, Nat.mod_eq_of_lt (b := 2 ^ 32) (by omega)]
    exact Nat.and_two_pow_sub_one_eq_mod v.toNat 16
  dsimp only
  rw [hhalf, hlow]
  exact ⟨run_write_read (r := .cmd) rfl hf, run_write_read (r := .pn) rfl hf, run_write_read (r := .pm) rfl hf,
    run_write_read (r := .pw) rfl hf, run_write_read (r := .pi) rfl hf, run_write_read (r := .tau0) rfl hf,
    run_write_read (r := .tau1) rfl hf, run_write_read (r := .scalar) rfl hf, run_write_read (r := .boff) rfl hf,
    run_write_read (r := .wlen) rfl hf, run_write_read (r := .finLo) rfl hf, run_write_read (r := .finHi) rfl hf⟩

/-! ### What the read-only, control and status registers read -/

/-- CFG0 as a number: NBANK above the 16 bits of NMAX (R21). -/
theorem cfg0Word_toNat {bd : Build} (h : bd.Legal) : (cfg0Word bd).toNat = bd.nbank * 2 ^ 16 + bd.nmax := by
  obtain ⟨-, hnmax, -, hnbank, -, -, -⟩ := h
  have hlow : bd.nmax % 2 ^ 16 = bd.nmax := by omega
  have hhigh : bd.nbank % 2 ^ 4 = bd.nbank := by omega
  simp only [cfg0Word, BitVec.toNat_append, BitVec.toNat_ofNat, hlow, hhigh]
  rw [← Nat.shiftLeft_add_eq_or_of_lt (by omega), Nat.shiftLeft_eq]
  simp

theorem cfg1Word_toNat {bd : Build} (h : bd.Legal) : (cfg1Word bd).toNat = bd.bufsz := by
  obtain ⟨-, -, -, -, -, hbufsz, -⟩ := h
  exact Nat.mod_eq_of_lt (by omega)

/-- The fields of CFG0 (R21). -/
theorem cfg0Word_fields {bd : Build} (h : bd.Legal) :
    ((cfg0Word bd).extractLsb' 0 16).toNat = bd.nmax ∧ ((cfg0Word bd).extractLsb' 16 4).toNat = bd.nbank ∧
      (cfg0Word bd).extractLsb' 20 12 = 0 := by
  have hword := cfg0Word_toNat h
  obtain ⟨-, hnmax, -, hnbank, -, -, -⟩ := h
  refine ⟨?_, ?_, BitVec.eq_of_toNat_eq ?_⟩ <;>
    simp only [BitVec.extractLsb'_toNat, hword, Nat.shiftRight_eq_div_pow, BitVec.ofNat_eq_ofNat, BitVec.toNat_ofNat] <;>
    omega

/-- CTRL reads IE in bit 2 (R23). -/
theorem ctrlWord_eq (s : State) : s.ctrlWord = if s.ie then 4#32 else 0#32 := by
  unfold State.ctrlWord
  cases s.ie <;> rfl

/-- STATUS reads the four flags in bits 0 to 3 (R24). -/
theorem statusWord_bits (s : State) :
    s.statusWord.getLsbD 0 = s.busy ∧ s.statusWord.getLsbD 1 = s.done ∧ s.statusWord.getLsbD 2 = s.err ∧
      s.statusWord.getLsbD 3 = s.ovf ∧ s.statusWord.extractLsb' 4 28 = 0 := by
  unfold State.statusWord
  cases s.ovf <;> cases s.err <;> cases s.done <;> cases s.busy <;> decide

/-- Settles O37: each read returns what its register reads, and CFG0's and CFG1's fields are the sizes. -/
theorem readOnlyRegisters : Obligations.ReadOnlyRegisters := by
  refine ⟨fun s rest => ⟨step_readReg (r := .id), fun hb h => ?_, fun hb h => ?_, fun h => ?_,
    step_readReg (r := .fout), step_readReg (r := .wmask)⟩, by decide⟩
  · exact ⟨_, step_readReg (r := .cfg0) h, cfg0Word_fields hb⟩
  · exact ⟨_, step_readReg (r := .cfg1) h, cfg1Word_toNat hb⟩
  · exact ⟨_, step_readReg (r := .errcode) h, by simp only [readReg]; cases s.errcode <;> decide⟩

/-- A START with SRST = 0 and none in flight: IE is stored, then the command in CMD starts (R23, R74). -/
theorem writeCtrl_start {v : Word} {s : State} (hsrst : v.getLsbD 1 = false) (hstart : v.getLsbD 0 = true)
    (hf : s.inflight = none) : writeCtrl v s = startCommand { s with ie := v.getLsbD 2 } := by
  simp only [writeCtrl, hsrst, hstart, State.busy, hf, Option.isSome_none, Bool.false_eq_true, if_true, if_false]

theorem writeCtrl_ie {v : Word} {s : State} (hsrst : v.getLsbD 1 = false) (hstart : v.getLsbD 0 = false) :
    writeCtrl v s = .next { s with ie := v.getLsbD 2 } := by
  simp only [writeCtrl, hsrst, hstart, Bool.false_eq_true, if_false]

/-- Settles O39: the three forms of a write of CTRL, and its read. -/
theorem controlRegister : Obligations.ControlRegister := by
  intro s v rest
  refine ⟨fun h hsrst => ?_, fun h hsrst hstart hf => ?_, fun h hsrst hstart => ?_, fun h => ?_⟩
  · rw [step_writeCtrl h, writeCtrl, if_pos hsrst]
  · rw [step_writeCtrl h, writeCtrl_start (s := { s with agenda := rest }) hsrst hstart hf]
  · rw [step_writeCtrl h, writeCtrl_ie hsrst hstart]
  · rw [step_readReg (r := .ctrl) h, readReg, ctrlWord_eq]

/-- Settles O40: the read by the bits of STATUS, the write field by field. -/
theorem statusReadsAndClearsItsFlags : Obligations.StatusReadsAndClearsItsFlags := by
  intro s v rest
  refine ⟨fun h => ?_, fun h => ?_⟩
  · obtain ⟨hbusy, hflags⟩ := statusWord_bits s
    refine ⟨_, step_readReg (r := .status) h, ?_, hflags⟩
    rw [readReg, hbusy, State.busy, Option.isSome_iff_ne_none]
  · rw [step_write h (by decide) (by decide), show (0x014 : Nat) = Reg.status.offset from rfl, target_register]
    exact congrArg Host.Outcome.next (writeStatus_eq v _)

/-- Settles O44: these offsets name nothing. -/
theorem reservedOffsetsReadZeroAndIgnoreWrites : Obligations.ReservedOffsetsReadZeroAndIgnoreWrites := by
  intro s off v rest ha hoff
  have htarget : target s.build off = .reserved := target_reserved s.build ha (by omega)
  have hlt : off < 0x40000 := by omega
  refine ⟨fun h => ?_, fun h => ?_⟩
  · rw [step_read h ha hlt, htarget]
    rfl
  · rw [step_write h ha hlt, htarget]
    rfl

/-! ### Reset values (R47) -/

/-- Each of the three resets leaves a state that a reset of its registers would not change (R47, R129, R130). -/
theorem eq_resetRegisters_of_reset {t : State}
    (h : t = State.reset ∨ (∃ s rest, s.agenda = .hardReset :: rest ∧ step s = .next t) ∨ ∃ s, t = softReset s) :
    t = resetRegisters t := by
  rcases h with rfl | ⟨s, rest, hnext, hstep⟩ | ⟨s, rfl⟩
  · rfl
  · cases (step_hardReset hnext).symm.trans hstep
    rfl
  · rfl

theorem ctrlWord_resetRegisters (s : State) : (resetRegisters s).ctrlWord = 0#32 := by
  rw [ctrlWord_eq]
  rfl

theorem statusWord_resetRegisters (s : State) : (resetRegisters s).statusWord = 0#32 := by
  simp only [State.statusWord, State.busy, resetRegisters_ovf, resetRegisters_err, resetRegisters_done,
    resetRegisters_inflight]
  rfl

/-- Settles O50: after each reset the state is one whose registers are reset. -/
theorem resetValues : Obligations.ResetValues := by
  refine ⟨fun t h => ?_, fun s rest h => ⟨_, step_hardReset h, rfl, fun x => rfl⟩, fun s hf => ?_⟩
  · rw [eq_resetRegisters_of_reset h]
    refine ⟨rfl, rfl, ctrlWord_resetRegisters t, statusWord_resetRegisters t, ?_⟩
    and_intros <;> rfl
  · rw [softReset, abort_idle hf]
    exact ⟨rfl, rfl⟩

end Sys2Proof.Machine
end

section
/-! SUPPORT. The bank and buffer windows at the host port (R49 to R51, R54), and host accesses while a command is in
flight (R57, R58). -/

namespace Sys2Proof.Machine

/-! ### Accesses outside the spec (R48, R54) -/

/-- One step is the first event of the agenda (R119). -/
theorem step_event {s : State} {e : Event} {rest : List Event} (h : s.agenda = e :: rest) :
    step s = runEvent e { s with agenda := rest } := by
  simp only [step, h]

theorem access_misaligned {off : Nat} (h : off % 4 ≠ 0) (s : State)
    (act : Target → Host.Outcome State Fault Refusal) : access off s act = .refused .accessMisaligned :=
  if_pos h

theorem access_outside {off : Nat} (ha : off % 4 = 0) (h : 0x40000 ≤ off) (s : State)
    (act : Target → Host.Outcome State Fault Refusal) : access off s act = .fault .outsideAperture := by
  rw [access, if_neg (not_not.mpr ha), if_pos h]

/-- Settles O48: the width, then the alignment, then the aperture. -/
theorem onlyAlignedWordAccessesAreDefined : Obligations.OnlyAlignedWordAccessesAreDefined := by
  intro s off bits v rest
  refine ⟨fun h => step_event h, fun h ha => ?_, fun h ha => ?_, fun h ha ho => ?_, fun h ha ho => ?_⟩
  · rw [step_event h, runEvent, access_misaligned ha]
  · rw [step_event h, runEvent, access_misaligned ha]
  · rw [step_event h, runEvent, access_outside ha ho]
  · rw [step_event h, runEvent, access_outside ha ho]

/-! ### Reads with no command in flight (R49 to R51) -/

/-- The word a read of a target returns while no command is in flight. -/
def targetWord (tg : Target) (s : State) : Word :=
  match tg with
  | .register r => readReg r s
  | .coefficient b i => (readCoeff s b i).signExtend 32
  | .bufferWord k => readBufWord s k
  | .reserved => 0

theorem readTarget_idle {s : State} (hf : s.inflight = none) (tg : Target) :
    readTarget tg s = answer (targetWord tg s) s := by
  have hb : s.busy = false := by simp [State.busy, hf]
  cases tg with
  | register r => rfl
  | coefficient b i => simp [readTarget, targetWord, hb]
  | bufferWord k => simp [readTarget, targetWord, hb]
  | reserved => rfl

/-- What a target reads is a matter of the engine, not of the host's events or of what it has read. -/
theorem targetWord_host (tg : Target) (s : State) (l : List Event) (ws : List Word) :
    targetWord tg { s with agenda := l, hostReads := ws } = targetWord tg s := by
  cases tg with
  | register r => cases r <;> rfl
  | _ => rfl

/-- A host read while no command is in flight (R18, R50, R51). -/
theorem step_read_idle {s : State} {off : Nat} {rest : List Event} (h : HostReadIsNext s off rest)
    (ha : off % 4 = 0) (hl : off < 0x40000) (hf : s.inflight = none) :
    step s = .next { s with agenda := rest, hostReads := targetWord (target s.build off) s :: s.hostReads } := by
  rw [step_read h ha hl, readTarget_idle (s := { s with agenda := rest }) hf, targetWord_host _ s rest s.hostReads]
  rfl

/-- A host read changes at most what the host has read and the count of free values drawn (R49, R58). -/
theorem readTarget_frame (tg : Target) (s : State) :
    ∃ (w : Word) (k : Nat), readTarget tg s = { s with hostReads := w :: s.hostReads, draws := k } := by
  rcases Option.eq_none_or_eq_some s.inflight with hf | ⟨f, hf⟩
  · exact ⟨_, s.draws, readTarget_idle hf tg⟩
  · have hb : s.busy = true := by simp [State.busy, hf]
    cases tg with
    | register r => exact ⟨_, s.draws, rfl⟩
    | coefficient b i => exact ⟨_, _, if_pos hb⟩
    | bufferWord k => exact ⟨_, _, if_pos hb⟩
    | reserved => exact ⟨_, s.draws, rfl⟩

/-- Settles O45: with none in flight the word is a function of the engine; in flight only a free value is drawn. -/
theorem hostReadsHaveNoSideEffect : Obligations.HostReadsHaveNoSideEffect := by
  intro s off rest h ha hl
  rcases Option.eq_none_or_eq_some s.inflight with hf | ⟨f, hf⟩
  · refine ⟨_, s.draws, step_read_idle h ha hl hf, fun _ => ⟨rfl, fun s' rest' h' hs' => ?_⟩⟩
    have hf' : s'.inflight = none := by rw [hs', hf]
    have hbuild : s'.build = s.build := by rw [hs']
    have hword (tg : Target) : targetWord tg s' = targetWord tg s :=
      (congrArg (targetWord tg) hs').trans (targetWord_host tg s _ _)
    rw [step_read_idle h' ha hl hf', hbuild, hword]
  · obtain ⟨w, k, hread⟩ := readTarget_frame (target s.build off) { s with agenda := rest }
    refine ⟨w, k, ?_, fun hnone => ?_⟩
    · rw [step_read h ha hl, hread]
    · cases hf.symm.trans hnone

/-! ### The windows with no command in flight (R50, R51) -/

theorem guarded_idle {s : State} (hf : s.inflight = none) (store : State → State) : guarded store s = store s := by
  simp [guarded, State.busy, hf]

theorem guarded_inFlight {s : State} {f : InFlight} (hf : s.inflight = some f) (store : State → State) :
    guarded store s = busyError s := by
  simp [guarded, State.busy, hf]

/-- A host write of a bank word (R50, R57). -/
theorem step_write_bank {s : State} {b i : Nat} {v : Word} {rest : List Event} (hb : b ≤ 7) (hi : i ≤ 2047)
    (h : HostWriteIsNext s (0x10000 + 0x2000 * b + 4 * i) v rest) :
    step s = .next (if b < s.build.nbank ∧ i < s.build.nmax
      then guarded (writeCoeff b i (v.setWidth 16)) { s with agenda := rest } else { s with agenda := rest }) := by
  rw [step_write h (by omega) (by omega), target_bank s.build hb hi]
  split <;> rfl

/-- A host write of a buffer word (R51, R57). -/
theorem step_write_buffer {s : State} {k : Nat} {v : Word} {rest : List Event} (hk : 4 * k ≤ 0xFFFC)
    (h : HostWriteIsNext s (0x20000 + 4 * k) v rest) :
    step s = .next (if 4 * k < s.build.bufsz
      then guarded (writeBufWord (4 * k) v) { s with agenda := rest } else { s with agenda := rest }) := by
  rw [step_write h (by omega) (by omega), target_buffer s.build hk]
  split <;> rfl

/-- Settles O42: the word names its coefficient when it is mapped, and nothing otherwise. -/
theorem bankWindow : Obligations.BankWindow := by
  intro s b i v rest hb hi hf
  dsimp only
  have ha : (0x10000 + 0x2000 * b + 4 * i) % 4 = 0 := by omega
  have hl : 0x10000 + 0x2000 * b + 4 * i < 0x40000 := by omega
  have htarget := target_bank s.build hb hi
  refine ⟨fun h => ⟨_, step_read_idle h ha hl hf, fun hm => ?_, fun hm => ?_⟩, fun h => ?_⟩
  · rw [htarget, if_pos hm, targetWord]
  · rw [htarget, if_neg hm]
    rfl
  · rw [step_write_bank hb hi h]
    by_cases hm : b < s.build.nbank ∧ i < s.build.nmax
    · rw [if_pos hm, guarded_idle (s := { s with agenda := rest }) hf]
      have hhalf : v.setWidth 16 = v.extractLsb' 0 16 := BitVec.setWidth_eq_extractLsb' (by decide)
      refine ⟨_, rfl, rfl, fun _ => ⟨?_, fun x hx hx' => ?_⟩, fun hn => absurd hm hn⟩
      · rw [readCoeff_writeCoeff_same, hhalf]
      · exact readByte_writeCoeff_other _ _ ⟨hx, hx'⟩
    · rw [if_neg hm]
      exact ⟨_, rfl, rfl, fun hm' => absurd hm' hm, fun _ => rfl⟩

/-- Byte j + 1 of a vector is byte j of what stands above its lowest byte. -/
theorem extractByte_succ_append {n : Nat} (high : BitVec n) (low : Byte) (j : Nat) :
    (high ++ low).extractLsb' (8 * (j + 1)) 8 = high.extractLsb' (8 * j) 8 := by
  rw [BitVec.extractLsb'_append_eq_of_le (by omega), show 8 * (j + 1) - 8 = 8 * j by omega]

/-- Byte j of a buffer word is buf[k + j] (R51). -/
theorem readBufWord_byte (s : State) (k : Nat) {j : Nat} (hj : j < 4) :
    (readBufWord s k).extractLsb' (8 * j) 8 = readBuf s (k + j) :=
  match j with
  | 0 => BitVec.extractLsb'_append_eq_right
  | 1 => (extractByte_succ_append _ _ 0).trans BitVec.extractLsb'_append_eq_right
  | 2 => (extractByte_succ_append _ _ 1).trans <| (extractByte_succ_append _ _ 0).trans
      BitVec.extractLsb'_append_eq_right
  | 3 => (extractByte_succ_append _ _ 2).trans <| (extractByte_succ_append _ _ 1).trans
      BitVec.extractLsb'_append_eq_left
  | n + 4 => absurd hj (by omega)

/-- Settles O43: the word names its four bytes when it is mapped, and nothing otherwise. -/
theorem bufferWindow : Obligations.BufferWindow := by
  intro s k v rest hk hf
  have ha : (0x20000 + 4 * k) % 4 = 0 := by omega
  have hl : 0x20000 + 4 * k < 0x40000 := by omega
  have htarget := target_buffer s.build hk
  refine ⟨fun h => ⟨_, step_read_idle h ha hl hf, fun hm j hj => ?_, fun hm => ?_⟩, fun h => ?_⟩
  · rw [htarget, if_pos hm]
    exact readBufWord_byte s (4 * k) hj
  · rw [htarget, if_neg hm]
    rfl
  · rw [step_write_buffer hk h]
    by_cases hm : 4 * k < s.build.bufsz
    · rw [if_pos hm, guarded_idle (s := { s with agenda := rest }) hf]
      exact ⟨_, rfl, rfl, fun _ => ⟨fun j hj => readBuf_writeBufs_byte _ 4 _ hj,
        fun x hx => readByte_writeBufs_other _ 4 _ hx⟩, fun hn => absurd hm hn⟩
    · rw [if_neg hm]
      exact ⟨_, rfl, rfl, fun hm' => absurd hm' hm, fun _ => rfl⟩

/-! ### Accesses while a command is in flight (R57, R58) -/

/-- Settles O47: a register is read as ever, a mapped word of memory is a free value. -/
theorem hostReadsWhileBusy : Obligations.HostReadsWhileBusy := by
  intro s f rest hf
  have hb : s.busy = true := by simp [State.busy, hf]
  refine ⟨fun r h => step_readReg h, fun b i hb7 hi hbank hmax h => ?_, fun k hk hsize h => ?_⟩
  · rw [step_read h (by omega) (by omega), target_bank s.build hb7 hi, if_pos ⟨hbank, hmax⟩]
    exact congrArg Host.Outcome.next (if_pos hb)
  · rw [step_read h (by omega) (by omega), target_buffer s.build hk, if_pos hsize]
    exact congrArg Host.Outcome.next (if_pos hb)

/-- A host write of a register (R18, R57). -/
theorem step_writeReg {s : State} {r : Reg} {v : Word} {rest : List Event} (h : HostWriteIsNext s r.offset v rest) :
    step s = writeTarget (.register r) v { s with agenda := rest } := by
  have hlt := r.offset_lt
  rw [step_write h r.offset_aligned (by omega), target_register]

/-- A host write of CMD or a parameter register while a command is in flight (R57). -/
theorem step_writeReg_locked_inFlight {s : State} {f : InFlight} {r : Reg} {v : Word} {rest : List Event}
    (hl : r.locked = true) (hf : s.inflight = some f) (h : HostWriteIsNext s r.offset v rest) :
    step s = .next (busyError { s with agenda := rest }) := by
  have hguard := guarded_inFlight (s := { s with agenda := rest }) hf (storeReg r v)
  rw [step_writeReg h]
  cases r <;> cases hl <;> exact congrArg Host.Outcome.next hguard

/-- The offsets from CMD to FIN_HI are those of the locked registers (R19, R57). -/
theorem exists_locked_offset {off : Nat} (ha : off % 4 = 0) (hlow : 0x01C ≤ off) (hhigh : off ≤ 0x048) :
    ∃ r : Reg, r.locked = true ∧ off = r.offset := by
  have hall : ∀ k < 12, (Reg.at (0x01C + 4 * k)).any Reg.locked = true := by decide
  have hoff : off = 0x01C + 4 * ((off - 0x01C) / 4) := by omega
  obtain ⟨r, hr, hl⟩ := (Option.any_eq_true _ _).mp (hall ((off - 0x01C) / 4) (by omega))
  exact ⟨r, hl, hoff.trans (Reg.at_eq_some hr)⟩

/-- A START while a command is in flight: IE is stored, the START ignored with error 0x09 (R57). -/
theorem writeCtrl_start_inFlight {v : Word} {s : State} {f : InFlight} (hsrst : v.getLsbD 1 = false)
    (hstart : v.getLsbD 0 = true) (hf : s.inflight = some f) :
    writeCtrl v s = .next (busyError { s with ie := v.getLsbD 2 }) := by
  simp only [writeCtrl, hsrst, hstart, State.busy, hf, Option.isSome_some, Bool.false_eq_true, if_true, if_false]

/-- A host write of a read-only register or of a location that names nothing does nothing (R18, R39, R49). -/
theorem step_write_ignored {s : State} {off : Nat} {v : Word} {rest : List Event} (h : HostWriteIsNext s off v rest)
    (ha : off % 4 = 0)
    (hoff : off ≤ 0x00C ∨ off = 0x018 ∨ (0x04C ≤ off ∧ off ≤ 0xFFFC) ∨ (0x30000 ≤ off ∧ off < 0x40000)) :
    step s = .next { s with agenda := rest } := by
  have hsplit : off = 0x000 ∨ off = 0x004 ∨ off = 0x008 ∨ off = 0x018 ∨ off = 0x04C ∨ off = 0x050 ∨
      (off = 0x00C ∨ (0x054 ≤ off ∧ off ≤ 0xFFFC) ∨ (0x30000 ≤ off ∧ off < 0x40000)) := by omega
  rcases hsplit with rfl | rfl | rfl | rfl | rfl | rfl | hreserved
  · exact step_writeReg (r := .id) h
  · exact step_writeReg (r := .cfg0) h
  · exact step_writeReg (r := .cfg1) h
  · exact step_writeReg (r := .errcode) h
  · exact step_writeReg (r := .fout) h
  · exact step_writeReg (r := .wmask) h
  · exact (reservedOffsetsReadZeroAndIgnoreWrites s off v rest ha hreserved).2 h

/-- Settles O46, target by target. -/
theorem hostWritesWhileBusy : Obligations.HostWritesWhileBusy := by
  intro s f off v rest hf h ha
  obtain ⟨hreset, -, hie, -⟩ := controlRegister s v rest
  refine ⟨?ctrlReset, ?ctrlStart, ?ctrlStore, ?status, ?locked, ?bank, ?buffer, step_write_ignored h ha, rfl⟩
  case ctrlReset => rintro rfl hsrst; exact hreset h hsrst
  case ctrlStart =>
    rintro rfl hsrst hstart
    exact (step_writeCtrl h).trans (writeCtrl_start_inFlight hsrst hstart hf)
  case ctrlStore => rintro rfl hsrst hstart; exact hie h hsrst hstart
  case status => rintro rfl; exact step_writeReg (r := .status) h
  case locked =>
    intro hlow hhigh
    obtain ⟨r, hl, rfl⟩ := exists_locked_offset ha hlow hhigh
    exact step_writeReg_locked_inFlight hl hf h
  case bank =>
    rintro b i hb hi rfl
    rw [step_write_bank hb hi h, guarded_inFlight (s := { s with agenda := rest }) hf]
    rfl
  case buffer =>
    rintro k hk rfl
    rw [step_write_buffer hk h, guarded_inFlight (s := { s with agenda := rest }) hf]
    rfl

end Sys2Proof.Machine
end

section
/-! SUPPORT. The command word (R63 to R71): the fields of a packed word, which words decode to what, and the START of a
bad word. -/

namespace Sys2Proof

/-! ### Fields of a word (R63) -/

/-- A word is its fields, one beside the other (R63). -/
theorem append_fields (w : Word) :
    (w.extractLsb' 22 10 ++ w.extractLsb' 21 1 ++ w.extractLsb' 20 1 ++ w.extractLsb' 16 4 ++ w.extractLsb' 12 4 ++
      w.extractLsb' 8 4 ++ w.extractLsb' 0 8 : Word) = w := by
  simp (disch := decide) only [BitVec.extractLsb'_append_extractLsb'_eq_extractLsb', BitVec.extractLsb'_eq_self]

/-- Words of equal fields are equal. -/
theorem word_eq_of_fields {v w : Word} (hop : v.extractLsb' 0 8 = w.extractLsb' 0 8)
    (hd : v.extractLsb' 8 4 = w.extractLsb' 8 4) (ha : v.extractLsb' 12 4 = w.extractLsb' 12 4)
    (hb : v.extractLsb' 16 4 = w.extractLsb' 16 4) (hr : v.extractLsb' 20 1 = w.extractLsb' 20 1)
    (hp : v.extractLsb' 21 1 = w.extractLsb' 21 1) (hrsv : v.extractLsb' 22 10 = w.extractLsb' 22 10) : v = w := by
  rw [← append_fields v, hop, hd, ha, hb, hr, hp, hrsv, append_fields w]

section PackWord

variable (op d a b : Nat) (r p : Bool)

@[simp] theorem packWord_op : (packWord op d a b r p).extractLsb' 0 8 = BitVec.ofNat 8 op := by
  simp (disch := decide) only [packWord, BitVec.extractLsb'_append_eq_of_add_le, BitVec.extractLsb'_eq_self]

@[simp] theorem packWord_d : (packWord op d a b r p).extractLsb' 8 4 = BitVec.ofNat 4 d := by
  simp (disch := decide) only [packWord, BitVec.extractLsb'_append_eq_of_le, BitVec.extractLsb'_append_eq_of_add_le,
    Nat.reduceSub, BitVec.extractLsb'_eq_self]

@[simp] theorem packWord_a : (packWord op d a b r p).extractLsb' 12 4 = BitVec.ofNat 4 a := by
  simp (disch := decide) only [packWord, BitVec.extractLsb'_append_eq_of_le, BitVec.extractLsb'_append_eq_of_add_le,
    Nat.reduceSub, BitVec.extractLsb'_eq_self]

@[simp] theorem packWord_b : (packWord op d a b r p).extractLsb' 16 4 = BitVec.ofNat 4 b := by
  simp (disch := decide) only [packWord, BitVec.extractLsb'_append_eq_of_le, BitVec.extractLsb'_append_eq_of_add_le,
    Nat.reduceSub, BitVec.extractLsb'_eq_self]

@[simp] theorem packWord_r : (packWord op d a b r p).extractLsb' 20 1 = BitVec.ofBool r := by
  simp (disch := decide) only [packWord, BitVec.extractLsb'_append_eq_of_le, BitVec.extractLsb'_append_eq_of_add_le,
    Nat.reduceSub, BitVec.extractLsb'_eq_self]

@[simp] theorem packWord_p : (packWord op d a b r p).extractLsb' 21 1 = BitVec.ofBool p := by
  simp (disch := decide) only [packWord, BitVec.extractLsb'_append_eq_of_le, BitVec.extractLsb'_append_eq_of_add_le,
    Nat.reduceSub, BitVec.extractLsb'_eq_self]

@[simp] theorem packWord_rsv : (packWord op d a b r p).extractLsb' 22 10 = 0#10 := by
  simp (disch := decide) only [packWord, BitVec.extractLsb'_append_eq_of_le, Nat.reduceSub,
    BitVec.extractLsb'_eq_self]

end PackWord

/-- A bit is a field of one bit. -/
theorem getLsbD_eq_extractLsb' (w : Word) (k : Nat) : w.getLsbD k = (w.extractLsb' k 1).getLsbD 0 := by simp

/-! ### What the decoder answers (R66, R68, R69) -/

section Decode

variable {v w m : Word} {i : Instr}

theorem decode_eq_ok : decode w = .ok i ↔ decodeOp w = some i ∧ rsvField w = 0 := by
  unfold decode
  cases decodeOp w with
  | none => simp
  | some j => by_cases h : rsvField w = 0 <;> simp [h]

theorem decodeOp_eq_none : decodeOp w = none ↔ 0x0D ≤ opField w := by
  constructor
  · intro h
    by_contra hlt
    have hle : opField w ≤ 0x0C := by omega
    unfold decodeOp at h
    interval_cases opField w <;> cases h
  · intro h
    unfold decodeOp
    split
    case h_14 => rfl
    all_goals omega

/-- An illegal opcode is named whatever the reserved bits are (R68, R115). -/
theorem decode_illegalOp (h : 0x0D ≤ opField w) : decode w = .bad .illegalOp := by
  rw [decode, decodeOp_eq_none.mpr h]

theorem decode_reserved (hop : opField w ≤ 0x0C) (hrsv : rsvField w ≠ 0) : decode w = .bad .reserved := by
  have hsome : decodeOp w ≠ none := fun hnone => absurd (decodeOp_eq_none.mp hnone) (by omega)
  obtain ⟨i, hi⟩ := Option.ne_none_iff_exists'.mp hsome
  rw [decode, hi]
  exact if_neg hrsv

/-! ### The round trip (R71) -/

/-- A field of four bits keeps a bank index that fits it (R65). -/
theorem mod_eq_of_bankFieldFits {x : Nat} (h : bankFieldFits x = true) : x % 16 = x :=
  Nat.mod_eq_of_lt (of_decide_eq_true h)

@[simp] theorem opField_packWord (op d a b : Nat) (r p : Bool) : opField (packWord op d a b r p) = op % 256 := by
  simp [opField]

@[simp] theorem dField_packWord (op d a b : Nat) (r p : Bool) : dField (packWord op d a b r p) = d % 16 := by
  simp [dField]

@[simp] theorem aField_packWord (op d a b : Nat) (r p : Bool) : aField (packWord op d a b r p) = a % 16 := by
  simp [aField]

@[simp] theorem bField_packWord (op d a b : Nat) (r p : Bool) : bField (packWord op d a b r p) = b % 16 := by
  simp [bField]

@[simp] theorem rField_packWord (op d a b : Nat) (r p : Bool) : rField (packWord op d a b r p) = r := by
  rw [rField, getLsbD_eq_extractLsb', packWord_r]
  cases r <;> rfl

@[simp] theorem pField_packWord (op d a b : Nat) (r : Bool) (p : WeightPolicy) :
    pField (packWord op d a b r p.bit) = p := by
  rw [pField, getLsbD_eq_extractLsb', packWord_p]
  cases p <;> rfl

@[simp] theorem rsvField_packWord (op d a b : Nat) (r p : Bool) : rsvField (packWord op d a b r p) = 0 := by
  simp [rsvField]

theorem decode_encode (h : i.wellFormed = true) : decode (encode i) = .ok i := by
  refine decode_eq_ok.mpr ⟨?_, ?_⟩
  · cases i <;> simp_all [encode, decodeOp, Instr.wellFormed, mod_eq_of_bankFieldFits]
  · cases i <;> exact rsvField_packWord ..

/-! ### The opcode map (R66) -/

theorem field_eq_of_and_eq (h : v &&& m = w &&& m) {start len : Nat}
    (hm : m.extractLsb' start len = BitVec.allOnes len) : v.extractLsb' start len = w.extractLsb' start len := by
  have hfields := congrArg (BitVec.extractLsb' start len) h
  rwa [BitVec.extractLsb'_and, BitVec.extractLsb'_and, hm, BitVec.and_allOnes, BitVec.and_allOnes] at hfields

theorem opField_eq_of_and_eq (h : v &&& m = w &&& m) (hm : m.extractLsb' 0 8 = 0xFF#8) : opField v = opField w :=
  congrArg BitVec.toNat (field_eq_of_and_eq h hm)

theorem dField_eq_of_and_eq (h : v &&& m = w &&& m) (hm : m.extractLsb' 8 4 = 0xF#4) : dField v = dField w :=
  congrArg BitVec.toNat (field_eq_of_and_eq h hm)

theorem aField_eq_of_and_eq (h : v &&& m = w &&& m) (hm : m.extractLsb' 12 4 = 0xF#4) : aField v = aField w :=
  congrArg BitVec.toNat (field_eq_of_and_eq h hm)

theorem bField_eq_of_and_eq (h : v &&& m = w &&& m) (hm : m.extractLsb' 16 4 = 0xF#4) : bField v = bField w :=
  congrArg BitVec.toNat (field_eq_of_and_eq h hm)

theorem rField_eq_of_and_eq (h : v &&& m = w &&& m) (hm : m.extractLsb' 20 1 = 1#1) : rField v = rField w := by
  rw [rField, rField, getLsbD_eq_extractLsb', field_eq_of_and_eq h hm, ← getLsbD_eq_extractLsb']

theorem pField_eq_of_and_eq (h : v &&& m = w &&& m) (hm : m.extractLsb' 21 1 = 1#1) : pField v = pField w := by
  rw [pField, pField, getLsbD_eq_extractLsb', field_eq_of_and_eq h hm, ← getLsbD_eq_extractLsb']

theorem rsvField_eq_of_and_eq (h : v &&& m = w &&& m) (hm : m.extractLsb' 22 10 = 0x3FF#10) :
    rsvField v = rsvField w :=
  congrArg BitVec.toNat (field_eq_of_and_eq h hm)

/-- What the opcode mask leaves of a word: RSV, the fields of R66 as 0, OP (R63). -/
theorem and_opcodeMask (w : Word) :
    w &&& 0xFFC000FF#32 = w.extractLsb' 22 10 ++ 0#14 ++ w.extractLsb' 0 8 := by
  have hword : w = w.extractLsb' 22 10 ++ w.extractLsb' 8 14 ++ w.extractLsb' 0 8 := by
    rw [BitVec.extractLsb'_append_extractLsb'_eq_extractLsb' (by decide),
      BitVec.extractLsb'_append_extractLsb'_eq_extractLsb' (by decide), BitVec.extractLsb'_eq_self]
  have hmask : 0xFFC000FF#32 = BitVec.allOnes 10 ++ 0#14 ++ BitVec.allOnes 8 := by decide
  conv_lhs => rw [hword, hmask]
  rw [BitVec.and_append, BitVec.and_append, BitVec.and_allOnes, BitVec.and_zero, BitVec.and_allOnes]

theorem toNat_and_opcodeMask (w : Word) : (w &&& 0xFFC000FF#32).toNat = rsvField w * 2 ^ 22 + opField w := by
  have hop : opField w < 2 ^ 8 := (w.extractLsb' 0 8).isLt
  rw [and_opcodeMask, BitVec.toNat_append, BitVec.toNat_append, BitVec.toNat_ofNat, Nat.zero_mod, Nat.or_zero]
  change (rsvField w <<< 14) <<< 8 ||| opField w = _
  rw [← Nat.shiftLeft_add_eq_or_of_lt hop, Nat.shiftLeft_eq, Nat.shiftLeft_eq]
  ring

theorem and_opcodeMask_eq_iff {k : Nat} (hk : k ≤ 0x0C) :
    w &&& 0xFFC000FF#32 = BitVec.ofNat 32 k ↔ opField w = k ∧ rsvField w = 0 := by
  have hop : opField w < 2 ^ 8 := (w.extractLsb' 0 8).isLt
  rw [← BitVec.toNat_inj, toNat_and_opcodeMask, BitVec.toNat_ofNat]
  omega

/-- A word whose OP and RSV are those of a row of R66 is that row's command. -/
theorem decode_of_opcodeMask {k : Nat} (hk : k ≤ 0x0C) (hrow : opField w = k → decodeOp w = some i)
    (h : w &&& 0xFFC000FF#32 = BitVec.ofNat 32 k) : decode w = .ok i := by
  obtain ⟨hop, hrsv⟩ := (and_opcodeMask_eq_iff hk).mp h
  exact decode_eq_ok.mpr ⟨hrow hop, hrsv⟩

theorem toNat_and_opMask (w : Word) : (w &&& 0xFF#32).toNat = opField w := by
  rw [BitVec.toNat_and, opField, BitVec.extractLsb'_toNat, Nat.shiftRight_zero]
  exact Nat.and_two_pow_sub_one_eq_mod w.toNat 8

/-- Settles O3, row by row. -/
theorem opcodeAndReservedBitsSelectTheCommand : Obligations.OpcodeAndReservedBitsSelectTheCommand := by
  intro w
  refine ⟨?_, ?_, ?_, ?_, ?_, ?_, ?_, ?_, ?_, ?_, ?_, ?_, ?_, fun i h => ?only_rows, fun h => ?illegal⟩
  case only_rows =>
    obtain ⟨hsome, hrsv⟩ := decode_eq_ok.mp h
    have hop : opField w ≤ 0x0C := by
      by_contra hlt
      simp [decodeOp_eq_none.mpr (show 0x0D ≤ opField w by omega)] at hsome
    exact ⟨opField w, hop, (and_opcodeMask_eq_iff hop).mpr ⟨rfl, hrsv⟩⟩
  case illegal => exact decode_illegalOp (toNat_and_opMask w ▸ h)
  all_goals exact decode_of_opcodeMask (by decide) fun hop => by simp only [decodeOp, hop]

/-! ### Ignored fields (R67) -/

/-- Every command reads the whole of OP and RSV. -/
theorem usedBits_op_rsv (i : Instr) :
    (usedBits i).extractLsb' 0 8 = 0xFF#8 ∧ (usedBits i).extractLsb' 22 10 = 0x3FF#10 := by
  cases i
  all_goals
    rw [usedBits]
    decide

theorem decodeOp_eq_of_usedBits (hw : decodeOp w = some i) (h : v &&& usedBits i = w &&& usedBits i) :
    decodeOp v = some i := by
  have hop := opField_eq_of_and_eq h (usedBits_op_rsv i).1
  unfold decodeOp at hw ⊢
  rw [hop]
  split at hw
  case h_14 => cases hw
  all_goals
    cases hw
    rw [usedBits] at h
  all_goals simp (disch := decide) only [dField_eq_of_and_eq h, aField_eq_of_and_eq h, bField_eq_of_and_eq h,
    rField_eq_of_and_eq h, pField_eq_of_and_eq h]

/-- An assembler writes an ignored field as 0 (R71): in each field the command's bits or the ignored ones are 0. -/
theorem encode_and_ignoredBits (i : Instr) : encode i &&& ~~~ usedBits i = 0#32 := by
  cases i
  all_goals
    rw [encode, usedBits]
    apply word_eq_of_fields
    all_goals simp [BitVec.extractLsb'_and]

/-- Settles O4: equal used bits give equal fields, and the masks of R66 say who uses R and P. -/
theorem ignoredFieldsChangeNothing : Obligations.IgnoredFieldsChangeNothing := by
  refine ⟨fun w v i hw h => ?_, fun i _ => encode_and_ignoredBits i, fun i => ?_, fun i => ?_⟩
  · obtain ⟨hsome, hrsv⟩ := decode_eq_ok.mp hw
    exact decode_eq_ok.mpr
      ⟨decodeOp_eq_of_usedBits hsome h, (rsvField_eq_of_and_eq h (usedBits_op_rsv i).2).trans hrsv⟩
  · cases i <;> simp [usedBits]
  · cases i <;> simp [usedBits]

end Decode

/-- Settles O2, by the fields of the packed word. -/
theorem decodeOfEncodeIsTheCommand : Obligations.DecodeOfEncodeIsTheCommand := fun _ h => decode_encode h

/-! ### The START of a bad word (R68, R69) -/

/-- Settles O5: the decoder names the error, and START rejects with its code. -/
theorem badWordsAreRejectedAtStart : Obligations.BadWordsAreRejectedAtStart := by
  intro s _
  refine ⟨fun hop => ?_, fun hop hrsv => ?_, rfl, rfl⟩
  · rw [Machine.startCommand, decode_illegalOp hop]
    rfl
  · have hrsv' : rsvField s.cmd ≠ 0 := fun h => hrsv (BitVec.eq_of_toNat_eq h)
    rw [Machine.startCommand, decode_reserved hop hrsv']
    rfl

end Sys2Proof
end

section
/-! SUPPORT. The runs of the assembler's pseudo-instructions (R73): WAIT, the store of an operand, RUN, and what SMUL
and FREEZE leave at the end of one. -/

namespace Sys2Proof.Machine

/-! ### The host's own fields -/

/-- A state with other events to come and other words read: the model's own fields that the host's accesses move
(log 1, log 14). -/
def State.hosted (s : State) (l : List Event) (ws : List Word) : State := { s with agenda := l, hostReads := ws }

theorem writeCoeffs_hosted (b : Nat) (v : Nat → Half) (n : Nat) (s : State) (l : List Event) (ws : List Word) :
    writeCoeffs b v n (s.hosted l ws) = (writeCoeffs b v n s).hosted l ws := by
  induction n with
  | zero => rfl
  | succ n ih => exact congrArg (writeCoeff b n (v n)) ih

theorem writeBufs_hosted (off : Nat) (v : Nat → Byte) (n : Nat) (s : State) (l : List Event) (ws : List Word) :
    writeBufs off v n (s.hosted l ws) = (writeBufs off v n s).hosted l ws := by
  induction n with
  | zero => rfl
  | succ n ih => exact congrArg (writeBuf (off + n) (v n)) ih

theorem writeLanes_hosted (d : Nat) (r : Bool) (e : Nat → Int) (p : Params) (s : State) (l : List Event)
    (ws : List Word) : writeLanes d r e p (s.hosted l ws) = (writeLanes d r e p s).hosted l ws := by
  rw [writeLanes, writeCoeffs_hosted]
  rfl

/-- An effect neither reads nor moves the host's fields. -/
theorem commandEffect_hosted (i : Instr) (p : Params) (s : State) (l : List Event) (ws : List Word) :
    commandEffect i p (s.hosted l ws) = (commandEffect i p s).hosted l ws := by
  cases i with
  | nop => rfl
  | sfreeze => rfl
  | freeze d a => exact writeCoeffs_hosted ..
  | add d a b r => exact writeLanes_hosted ..
  | sub d a b r => exact writeLanes_hosted ..
  | smul d a r => exact writeLanes_hosted ..
  | mul d a b => exact writeCoeffs_hosted ..
  | wcheck d a pol =>
    rw [commandEffect, writeCoeffs_hosted]
    rfl
  | top d a => exact writeCoeffs_hosted ..
  | topenc a => exact writeBufs_hosted ..
  | topdec d => exact writeCoeffs_hosted ..
  | inenc a => exact writeBufs_hosted ..
  | indec d => exact writeCoeffs_hosted ..

/-! ### WAIT (R73) -/

section Run

variable {s t : State} {i : Instr} {ie : Bool} {polls k : Nat} {rest : List Event}

/-- A run is its first step, then the rest of it. -/
theorem run_of_step {o : Host.Outcome State Fault Refusal} (h : step s = .next t)
    (hrun : Host.Core.run Sys2Proof.core k t = o) : Host.Core.run Sys2Proof.core (k + 1) s = o := by
  have hcore : Sys2Proof.core.step s = .next t := h
  rw [← hrun]
  simp only [Host.Core.run, hcore]

/-- A WAIT with no command in flight ends with its first read. -/
theorem run_wait_idle (hf : s.inflight = none) (h : s.agenda = .hostWait polls :: rest) :
    Host.Core.run Sys2Proof.core 1 s = .next (s.hosted rest (readReg .status s :: s.hostReads)) :=
  run_of_step (k := 0) (step_wait_idle h hf) rfl

/-- A WAIT with a command in flight: its reads of STATUS, the completion, and the read that ends it (log 20). -/
theorem run_wait_inFlight {f : InFlight} (hf : s.inflight = some f) (hd : decode f.word = .ok i)
    (h : s.agenda = .hostWait polls :: rest) (ht : t = finish (commandEffect i f.params s)) :
    Host.Core.run Sys2Proof.core (polls + 2) s =
      .next (t.hosted rest (readReg .status t :: (List.replicate polls (readReg .status s) ++ s.hostReads))) := by
  induction polls generalizing s t with
  | zero =>
    have hcomplete : step s = .next t := by
      have hnext := step_completion (s := s) (.inr (.inr ⟨by simp [hf], h, rest, rfl⟩))
      rw [← h] at hnext
      exact ht ▸ hnext.trans (complete_decodes hf hd)
    have hreads : t.hostReads = s.hostReads := by simp [ht]
    have hread := run_wait_idle (s := t) (polls := 0) (rest := rest) (by simp [ht]) (by simp [ht, h])
    rw [hreads] at hread
    exact run_of_step hcomplete hread
  | succ polls ih =>
    have hpoll : step s = .next (s.hosted (.hostWait polls :: rest) (readReg .status s :: s.hostReads)) :=
      step_wait_poll h (by simp [hf])
    have hend := ih (s := s.hosted (.hostWait polls :: rest) (readReg .status s :: s.hostReads)) hf rfl rfl
    rw [commandEffect_hosted] at hend
    rw [Nat.add_right_comm, List.replicate_succ', List.append_assoc, ht]
    exact run_of_step hpoll hend

/-! ### RUN (R73) -/

/-- A host write of CMD or an operand register, with no command in flight, is its store (R18). -/
theorem step_set {r : Reg} {v : Word} (hl : r.locked = true) (hf : s.inflight = none)
    (h : s.agenda = wr r v :: rest) : step s = .next (storeReg r v { s with agenda := rest }) :=
  (step_writeReg h).trans (writeTarget_locked (s := { s with agenda := rest }) hl hf v)

/-- The word RUN writes to CTRL has START = 1, SRST = 0 and IE as given (R23). -/
theorem startWord_bits (ie : Bool) :
    (0#29 ++ BitVec.ofBool ie ++ 0b01#2 : Word).getLsbD 0 = true ∧
    (0#29 ++ BitVec.ofBool ie ++ 0b01#2 : Word).getLsbD 1 = false ∧
    (0#29 ++ BitVec.ofBool ie ++ 0b01#2 : Word).getLsbD 2 = ie := by
  cases ie <;> decide

/-- The START of a command word runs its meaning, with IE as written (R74). -/
theorem step_start {v : Word} (hf : s.inflight = none) (hd : decode s.cmd = .ok i)
    (h : s.agenda = wr .ctrl v :: rest) (hstart : v.getLsbD 0 = true) (hsrst : v.getLsbD 1 = false) :
    step s = exec i { s with agenda := rest, ie := v.getLsbD 2 } := by
  rw [step_writeCtrl h, writeCtrl_start (s := { s with agenda := rest }) hsrst hstart hf]
  simp only [startCommand, hd]

/-- The two writes of a RUN: the command's word is in CMD, and its START is its meaning. -/
theorem run_start {o : Host.Outcome State Fault Refusal} (hf : s.inflight = none) (hw : i.wellFormed = true)
    (h : s.agenda = runEvents ie polls i ++ rest)
    (ht : exec i { s with agenda := .hostWait polls :: rest, cmd := encode i, ie := ie } = .next t)
    (hrun : Host.Core.run Sys2Proof.core k t = o) : Host.Core.run Sys2Proof.core (k + 2) s = o := by
  obtain ⟨hstart, hsrst, hie⟩ := startWord_bits ie
  have hcmd := step_set (r := .cmd) rfl hf h
  have hctrl := step_start (s := storeReg .cmd (encode i) { s with agenda := wr .ctrl _ :: .hostWait polls :: rest }) hf
    (decode_encode hw) rfl hstart hsrst
  rw [hie] at hctrl
  exact run_of_step hcmd (run_of_step (hctrl.trans ht) hrun)

/-- A RUN of a command that a check rejects: the rejection and one read of STATUS (R116). -/
theorem run_rejected {code : ErrCode} (hf : s.inflight = none) (hw : i.wellFormed = true)
    (h : s.agenda = runEvents ie polls i ++ rest) (hc : firstError s.build s.params (checks i) = some code) :
    Host.Core.run Sys2Proof.core 3 s =
      .next (State.hosted (reject code { s with cmd := encode i, ie := ie }) rest
        (readReg .status (reject code { s with cmd := encode i, ie := ie }) :: s.hostReads)) :=
  run_start hf hw h (exec_rejects hf hc) (run_wait_idle hf rfl)

/-- The state in which a RUN's command is in flight (R75), whatever events are to come. -/
def running (i : Instr) (ie : Bool) (s : State) : State :=
  { s with agenda := [], cmd := encode i, ie := ie, inflight := some ⟨encode i, s.params⟩ }

/-- A RUN of a command that passes its checks: it is accepted, and the WAIT ends after its completion. -/
theorem run_accepted (hf : s.inflight = none) (hw : i.wellFormed = true)
    (h : s.agenda = runEvents ie polls i ++ rest) (hc : firstError s.build s.params (checks i) = none)
    (ht : t = finish (commandEffect i s.params (running i ie s))) :
    Host.Core.run Sys2Proof.core (polls + 4) s = .next (t.hosted rest
      (readReg .status t :: (List.replicate polls (readReg .status (running i ie s)) ++ s.hostReads))) := by
  have hwait := run_wait_inFlight (s := (running i ie s).hosted (.hostWait polls :: rest) s.hostReads) rfl
    (decode_encode hw) rfl rfl
  rw [commandEffect_hosted] at hwait
  rw [ht]
  exact run_start hf hw h (exec_accepts hf hc) hwait

/-! ### An operand and a RUN -/

/-- A command whose banks exist can be written as a word (R8, R65). -/
theorem wellFormed_of_accepted {bd : Build} {p : Params} (hb : bd.Legal)
    (hc : firstError bd p (checks i) = none) : i.wellFormed = true := by
  obtain ⟨-, -, -, hnbank, -⟩ := hb
  have fits (x : Nat) (hx : .bank x ∈ checks i) : bankFieldFits x = true := by
    have hlt : x < bd.nbank := by simpa [Check.passes] using firstError_eq_none.mp hc _ hx
    exact decide_eq_true (by omega)
  cases i <;> simp_all [Instr.wellFormed, checks]

/-- What the store of an operand and a RUN of `i` leave: the operands `p`, the completion of `i` with the lanes of bank
`d`, and nothing else (R73, R76). -/
def OperandRunEnds (s : State) (d : Nat) (ie : Bool) (polls : Nat) (rest : List Event) (i : Instr) (p : Params)
    (t : State) : Prop :=
  Host.Core.run Sys2Proof.core (polls + 5) s = .next t ∧
  CompletionFrame { s with agenda := rest, cmd := encode i, ie := ie, params := p, hostReads := t.hostReads } t
    (LaneCell d s.params.pn.toNat) ∧
  t.fout = s.fout ∧ t.wmask = s.wmask

theorem operandRunEnds_of_accepted {d : Nat} {p : Params} (hf : s.inflight = none) (hb : s.build.Legal)
    (hset : step s = .next { s with agenda := runEvents ie polls i ++ rest, params := p })
    (hc : firstError s.build p (checks i) = none) (hcells : destCells i p.public = bankCells d s.params.pn.toNat)
    (hfout : ∀ u, (commandEffect i p u).fout = u.fout) (hwmask : ∀ u, (commandEffect i p u).wmask = u.wmask) :
    ∃ ws, OperandRunEnds s d ie polls rest i p
      ((finish (commandEffect i p (running i ie { s with params := p }))).hosted rest ws) := by
  have hrun := run_accepted (s := { s with agenda := runEvents ie polls i ++ rest, params := p }) hf
    (wellFormed_of_accepted hb hc) rfl hc rfl
  refine ⟨_, run_of_step hset hrun, ?frame, hfout _, hwmask _⟩
  have hcell (x : Nat) (hx : ¬ LaneCell d s.params.pn.toNat x) :
      readByte (commandEffect i p (running i ie { s with params := p })) x = readByte s x :=
    readByte_commandEffect_other (hcells ▸ fun hmem => hx (mem_bankCells.mp hmem))
  constructor
  case cells => exact hcell
  all_goals simp [State.hosted, running]

/-- COPY, NEG and ZERO: the factor `c` in SCALAR, and SMUL with R = 0 (R73, R96). -/
theorem exists_smul_ends {d a : Nat} {c : Word} (hf : s.inflight = none) (hb : s.build.Legal)
    (h : s.agenda = wr .scalar c :: runEvents ie polls (.smul d a false) ++ rest)
    (hc : firstError s.build s.params (checks (.smul d a false)) = none) :
    ∃ t, OperandRunEnds s d ie polls rest (.smul d a false) { s.params with scalar := c } t ∧
      t.ovf = ovfAfter false (fun k => c.toInt * coeff s a k) s.params.pn.toNat s.ovf ∧
      ∀ k, k < s.params.pn.toNat → readCoeff t d k = wrap16 (c.toInt * coeff s a k) := by
  obtain ⟨ws, hends⟩ := operandRunEnds_of_accepted hf hb (step_set (r := .scalar) rfl hf h) hc rfl
    (fun u => by simp [commandEffect]) (fun u => by simp [commandEffect])
  exact ⟨_, hends, rfl, fun k hk => readCoeff_writeCoeffs_lane _ _ _ hk⟩

/-- R3RED: 3 in PM, and FREEZE (R73, R90). -/
theorem exists_freeze_three_ends {d a : Nat} (hf : s.inflight = none) (hb : s.build.Legal)
    (h : s.agenda = wr .pm 3#32 :: runEvents ie polls (.freeze d a) ++ rest)
    (hc : firstError s.build { s.params with pm := 3#16 } (checks (.freeze d a)) = none) :
    ∃ t, OperandRunEnds s d ie polls rest (.freeze d a) { s.params with pm := 3#16 } t ∧ t.ovf = s.ovf ∧
      ∀ k, k < s.params.pn.toNat → readCoeff t d k = wrap16 (freeze 3 (coeff s a k)) := by
  obtain ⟨ws, hends⟩ := operandRunEnds_of_accepted hf hb (step_set (r := .pm) rfl hf h) hc rfl
    (fun u => by simp [commandEffect]) (fun u => by simp [commandEffect])
  exact ⟨_, hends, by simp [State.hosted, commandEffect, running],
    fun k hk => readCoeff_writeCoeffs_lane _ _ _ hk⟩

end Run

/-! ### Lane values (R9, R92) -/

section Lanes

variable {e : Nat → Int} {n k : Nat} {x : Int} {old : Bool}

theorem coeff_bounds (s : State) (b i : Nat) : -32768 ≤ coeff s b i ∧ coeff s b i ≤ 32767 := by
  have hlow := BitVec.le_toInt (readCoeff s b i)
  have hhigh := BitVec.toInt_lt (x := readCoeff s b i)
  simp only [coeff]
  omega

theorem toInt_wrap16 (hlow : -32768 ≤ x) (hhigh : x ≤ 32767) : (wrap16 x).toInt = x :=
  BitVec.toInt_ofInt_eq_self (by decide) hlow (by omega)

theorem anyOverflow_eq_true : anyOverflow e n = true ↔ ∃ k, k < n ∧ (e k < -32768 ∨ 32767 < e k) := by
  induction n with
  | zero => simp [anyOverflow]
  | succ n ih =>
    simp only [anyOverflow, Bool.or_eq_true, ih, overflows, decide_eq_true_eq, Nat.lt_succ_iff_lt_or_eq, or_and_right,
      exists_or, exists_eq_left]

/-- Lanes that fit keep OVF (R92). -/
theorem ovfAfter_of_fits (h : ∀ k, -32768 ≤ e k ∧ e k ≤ 32767) : ovfAfter false e n old = old := by
  have hnone : anyOverflow e n = false := by
    rw [← Bool.not_eq_true, anyOverflow_eq_true]
    rintro ⟨k, -, hk⟩
    have := h k
    omega
  simp [ovfAfter, hnone]

theorem wrap16_coeff (s : State) (b i : Nat) : wrap16 (coeff s b i) = readCoeff s b i := BitVec.ofInt_toInt

/-- A coefficient's negation, which only -32768 leaves as it is (R73). -/
theorem toInt_wrap16_neg (hlow : -32768 ≤ x) (hhigh : x ≤ 32767) :
    (wrap16 (-x)).toInt = if x = -32768 then -32768 else -x := by
  split
  · next hmin =>
    subst hmin
    decide
  · exact toInt_wrap16 (by omega) (by omega)

/-- The residue modulo 3 is -1, 0 or 1 (R86). -/
theorem freeze_three_bounds (x : Int) : -1 ≤ freeze 3 x ∧ freeze 3 x ≤ 1 := by
  simp only [freeze]
  split <;> omega

end Lanes

/-! ### The pseudo-instructions -/

theorem getLsbD_zero_statusWord (s : State) : (readReg .status s).getLsbD 0 = s.busy := (statusWord_bits s).1

section PseudoRuns

variable {s : State} {ie : Bool} {polls : Nat} {rest : List Event}

theorem clrst_step (h : s.agenda = Pseudo.clrst.expand ie polls ++ rest) :
    step s = .next { s with agenda := rest, done := false, err := false, errcode := .none, ovf := false } :=
  (step_writeReg (r := .status) h).trans (congrArg Host.Outcome.next (writeStatus_eq 0xE#32 _))

/-- A WAIT with a command in flight, from the completion as the command's meaning gives it. -/
theorem wait_completes {f : InFlight} {i : Instr} (h : s.agenda = Pseudo.wait.expand ie polls ++ rest)
    (hf : s.inflight = some f) (hd : decode f.word = .ok i) :
    ∃ t, exec i { s with agenda := rest } = .next t ∧ (readReg .status t).getLsbD 0 = false ∧
      Host.Core.run Sys2Proof.core (polls + 2) s = .next { t with
        hostReads := readReg .status t :: (List.replicate polls (readReg .status s) ++ s.hostReads) } := by
  refine ⟨_, exec_completes i (s := s.hosted rest s.hostReads) hf, getLsbD_zero_statusWord _, ?_⟩
  rw [commandEffect_hosted]
  exact run_wait_inFlight (t := finish (commandEffect i f.params s)) hf hd h rfl

/-- A RUN whose command passes its checks, from the completion as the command's meaning gives it. -/
theorem run_completes {i : Instr} (hf : s.inflight = none) (hw : i.wellFormed = true)
    (h : s.agenda = (Pseudo.run i).expand ie polls ++ rest) (hc : firstError s.build s.params (checks i) = none) :
    ∃ t, exec i ((running i ie s).hosted rest s.hostReads) = .next t ∧
      Host.Core.run Sys2Proof.core (polls + 4) s = .next { t with hostReads := readReg .status t ::
        (List.replicate polls (readReg .status (running i ie s)) ++ s.hostReads) } := by
  refine ⟨_, exec_completes i (s := (running i ie s).hosted rest s.hostReads) rfl, ?_⟩
  rw [commandEffect_hosted]
  exact run_accepted (t := finish (commandEffect i s.params (running i ie s))) hf hw h hc rfl

end PseudoRuns

/-- Settles O36: each expansion is a store or a clear, a WAIT, or an operand and a RUN of SMUL or FREEZE, whose lanes
are then computed. -/
theorem pseudoInstructionsOfTheAssembler : Obligations.PseudoInstructionsOfTheAssembler := by
  refine ⟨fun s ie polls rest h => ⟨fun hf => ?wait_idle, fun f i hf hd => ?wait_busy⟩,
    fun s i ie polls rest hf hw h => ⟨fun code hc => run_rejected hf hw h hc, run_completes hf hw h⟩,
    fun s r v ie polls rest => ⟨id, clrst_step⟩, fun s d a ie polls rest hf hb => ?_⟩
  case wait_idle => exact ⟨(getLsbD_zero_statusWord s).trans (congrArg Option.isSome hf), step_wait_idle h hf⟩
  case wait_busy => exact ⟨(getLsbD_zero_statusWord s).trans (congrArg Option.isSome hf), wait_completes h hf hd⟩
  refine ⟨fun h hc => ?copy, fun h hc => ?neg, fun h hc => ?zero, fun h hc => ?r3red⟩
  case copy =>
    obtain ⟨t, hends, hovf, hlanes⟩ := exists_smul_ends hf hb h hc
    have hone : (1#32).toInt = 1 := by decide
    simp only [hone, one_mul, wrap16_coeff, ovfAfter_of_fits (coeff_bounds s a)] at hovf hlanes
    exact ⟨t, hends, hovf, hlanes⟩
  case neg =>
    obtain ⟨t, hends, hovf, hlanes⟩ := exists_smul_ends hf hb h hc
    have hone : (0xFFFFFFFF#32).toInt = -1 := by decide
    simp only [hone, neg_one_mul] at hovf hlanes
    refine ⟨t, hends, ?_, fun k hk => ?_⟩
    · rw [hovf]
      simp only [ovfAfter, Bool.or_eq_true, Bool.not_false, Bool.true_and, anyOverflow_eq_true]
      have hmin (k : Nat) : -coeff s a k < -32768 ∨ 32767 < -coeff s a k ↔ coeff s a k = -32768 := by
        have := coeff_bounds s a k
        omega
      simp only [hmin]
    · obtain ⟨hlow, hhigh⟩ := coeff_bounds s a k
      rw [coeff, hlanes k hk, toInt_wrap16_neg hlow hhigh]
  case zero =>
    obtain ⟨t, hends, hovf, hlanes⟩ := exists_smul_ends hf hb h hc
    have hzero : (0#32).toInt = 0 := by decide
    simp only [hzero, zero_mul] at hovf hlanes
    exact ⟨t, hends, hovf.trans (ovfAfter_of_fits fun _ => by decide), hlanes⟩
  case r3red =>
    obtain ⟨t, hends, hovf, hlanes⟩ := exists_freeze_three_ends hf hb h hc
    refine ⟨t, hends, hovf, fun k hk => ?_⟩
    obtain ⟨hlow, hhigh⟩ := freeze_three_bounds (coeff s a k)
    rw [coeff, hlanes k hk]
    exact toInt_wrap16 (by omega) (by omega)

end Sys2Proof.Machine
end

section
/-! SUPPORT. The command cycle (R74 to R78): what a command's result depends on and what it writes, START and the
completion as steps, the one command in flight, and that a defined event has a next state. -/

namespace Sys2Proof.Machine

/-! ### Lane values from lanes that agree (R79, R80) -/

section Lanes

variable {n : Nat}

theorem anyOverflow_congr {e e' : Nat → Int} (h : ∀ k, k < n → e' k = e k) : anyOverflow e' n = anyOverflow e n := by
  induction n with
  | zero => rfl
  | succ n ih => simp only [anyOverflow, h n n.lt_succ_self, ih fun k hk => h k (Nat.lt_succ_of_lt hk)]

theorem weight_congr (pol : WeightPolicy) {A A' : Nat → Half} (h : ∀ k, k < n → A' k = A k) :
    weight pol A' n = weight pol A n := by
  induction n with
  | zero => rfl
  | succ n ih => simp only [weight, h n n.lt_succ_self, ih fun k hk => h k (Nat.lt_succ_of_lt hk)]

theorem convolveRow_congr {B B' : Nat → Int} (h : ∀ k, k < n → B' k = B k) (ai : Int) (i : Nat) (c : List Int) :
    convolveRow B' ai i n c = convolveRow B ai i n c := by
  induction n with
  | zero => rfl
  | succ n ih => simp only [convolveRow, h n n.lt_succ_self, ih fun k hk => h k (Nat.lt_succ_of_lt hk)]

theorem convolveRows_congr {A A' B B' : Nat → Int} {m : Nat} (hA : ∀ k, k < m → A' k = A k)
    (hB : ∀ k, k < n → B' k = B k) (c : List Int) : convolveRows A' B' n m c = convolveRows A B n m c := by
  induction m with
  | zero => rfl
  | succ m ih =>
    simp only [convolveRows, convolveRow_congr hB, hA m m.lt_succ_self, ih fun k hk => hA k (Nat.lt_succ_of_lt hk)]

/-- The product is a function of the N coefficients of each factor (R97). -/
theorem mulResult_congr (M : Nat) {A A' B B' : Nat → Int} (hA : ∀ k, k < n → A' k = A k)
    (hB : ∀ k, k < n → B' k = B k) : mulResult M n A' B' = mulResult M n A B := by
  simp only [mulResult, rawConvolution, convolveRows_congr hA hB]

/-- A byte of TOPENC packs coefficients below I only (R107). -/
theorem topencByte_congr {A A' : Nat → Half} (h : ∀ k, k < n → A' k = A k) {j : Nat} (hj : j < windowBytes 2 n) :
    topencByte A' n j = topencByte A n j := by
  have hlow : A' (2 * j) = A (2 * j) := h _ (by simp only [windowBytes] at hj; omega)
  by_cases hhigh : 2 * j + 1 < n
  · simp only [topencByte, hlow, h _ hhigh]
  · simp only [topencByte, hlow, if_neg hhigh]

theorem inencBits_congr {A A' : Nat → Half} (h : ∀ k, k < n → A' k = A k) (j m : Nat) :
    inencBits A' n j m = inencBits A n j m := by
  induction m with
  | zero => rfl
  | succ m ih =>
    by_cases hbit : 8 * j + m < n
    · simp only [inencBits, ih, h _ hbit]
    · simp only [inencBits, ih, if_neg hbit]

/-- Element k of TOPDEC is a nibble of a byte of the window (R108). -/
theorem topdecValue_congr {buf buf' : Nat → Byte} (h : ∀ j, j < windowBytes 2 n → buf' j = buf j) {k : Nat}
    (hk : k < n) : topdecValue buf' k = topdecValue buf k := by
  simp only [topdecValue, h (k / 2) (by simp only [windowBytes]; omega)]

/-- Element k of INDEC is a bit of a byte of the window (R111). -/
theorem indecValue_congr {buf buf' : Nat → Byte} (h : ∀ j, j < windowBytes 8 n → buf' j = buf j) {k : Nat}
    (hk : k < n) : indecValue buf' k = indecValue buf k := by
  simp only [indecValue, h (k / 8) (by simp only [windowBytes]; omega)]

end Lanes

/-! ### Two states that agree on some cells and on the results -/

/-- A coefficient's first cell holds its low byte (log 16). -/
theorem readByte_coeffAddr (s : State) (b k : Nat) :
    readByte s (coeffAddr b k) = (readCoeff s b k).extractLsb' 0 8 :=
  BitVec.extractLsb'_append_eq_right.symm

theorem readByte_coeffAddr_succ (s : State) (b k : Nat) :
    readByte s (coeffAddr b k + 1) = (readCoeff s b k).extractLsb' 8 8 :=
  BitVec.extractLsb'_append_eq_left.symm

/-- The two states hold the same in these cells, in FOUT and WMASK, and in OVF. -/
structure AgreeOn (cells : List Nat) (s t : State) : Prop where
  byte : ∀ x ∈ cells, readByte t x = readByte s x
  fout : t.fout = s.fout
  wmask : t.wmask = s.wmask
  ovf : t.ovf = s.ovf

namespace AgreeOn

section Reads

variable {cells cells' : List Nat} {s t : State} {b n k : Nat}

theorem mono (h : AgreeOn cells s t) (hsub : cells' ⊆ cells) : AgreeOn cells' s t :=
  { h with byte := fun x hx => h.byte x (hsub hx) }

theorem left (h : AgreeOn (cells ++ cells') s t) : AgreeOn cells s t := h.mono (List.subset_append_left _ _)

theorem right (h : AgreeOn (cells ++ cells') s t) : AgreeOn cells' s t := h.mono (List.subset_append_right _ _)

theorem readCoeff_eq (h : AgreeOn (bankCells b n) s t) (hk : k < n) : readCoeff t b k = readCoeff s b k := by
  simp only [readCoeff, h.byte _ (mem_bankCells.mpr ⟨k, hk, .inl rfl⟩),
    h.byte _ (mem_bankCells.mpr ⟨k, hk, .inr rfl⟩)]

theorem coeff_eq (h : AgreeOn (bankCells b n) s t) (hk : k < n) : coeff t b k = coeff s b k :=
  congrArg BitVec.toInt (h.readCoeff_eq hk)

theorem readBuf_eq {off nb : Nat} (h : AgreeOn (windowCells off nb) s t) (hk : k < nb) :
    readBuf t (off + k) = readBuf s (off + k) :=
  h.byte _ (mem_windowCells.mpr ⟨k, hk, rfl⟩)

/-- Equal coefficients written to the same lanes leave the same in them, whatever they held. -/
theorem writeCoeffs_same (h : AgreeOn cells s t) (d : Nat) {v v' : Nat → Half} (hv : ∀ k, k < n → v' k = v k) :
    AgreeOn (bankCells d n) (writeCoeffs d v n s) (writeCoeffs d v' n t) where
  byte x hx := by
    obtain ⟨k, hk, hxk⟩ := mem_bankCells.mp hx
    have hlane : readCoeff (writeCoeffs d v' n t) d k = readCoeff (writeCoeffs d v n s) d k := by
      rw [readCoeff_writeCoeffs_lane v' n t hk, readCoeff_writeCoeffs_lane v n s hk, hv k hk]
    rcases hxk with rfl | rfl
    · rw [readByte_coeffAddr, readByte_coeffAddr, hlane]
    · rw [readByte_coeffAddr_succ, readByte_coeffAddr_succ, hlane]
  fout := by simpa using h.fout
  wmask := by simpa using h.wmask
  ovf := by simpa using h.ovf

/-- Equal bytes written to the same window leave the same in it, whatever it held. -/
theorem writeBufs_same (h : AgreeOn cells s t) (off : Nat) {v v' : Nat → Byte} (hv : ∀ j, j < n → v' j = v j) :
    AgreeOn (windowCells off n) (writeBufs off v n s) (writeBufs off v' n t) where
  byte x hx := by
    obtain ⟨j, hj, rfl⟩ := mem_windowCells.mp hx
    exact (readBuf_writeBufs_byte v' n t hj).trans ((hv j hj).trans (readBuf_writeBufs_byte v n s hj).symm)
  fout := by simpa using h.fout
  wmask := by simpa using h.wmask
  ovf := by simpa using h.ovf

/-- Equal exact lane values leave the same lanes and the same OVF (R91, R92). -/
theorem writeLanes_same (h : AgreeOn cells s t) (d : Nat) (r : Bool) {e e' : Nat → Int} {p : Params}
    (he : ∀ k, k < p.N → e' k = e k) :
    AgreeOn (bankCells d p.N) (writeLanes d r e p s) (writeLanes d r e' p t) :=
  { h.writeCoeffs_same d (v := fun k => narrow r p.M (e k)) fun k hk => congrArg (narrow r p.M) (he k hk) with
    ovf := by simp only [writeLanes_ovf, ovfAfter, anyOverflow_congr he, h.ovf] }

end Reads

/-- The weight is counted over the N coefficients that WCHECK reads: an accepted one has WLEN ≤ N (R101, R113). -/
theorem weight_eq {s t : State} {bd : Build} {p : Params} {d a : Nat} {pol : WeightPolicy}
    (h : AgreeOn (bankCells a p.N) s t) (hc : firstError bd p (checks (.wcheck d a pol)) = none) :
    weight pol (readCoeff t a) p.L = weight pol (readCoeff s a) p.L := by
  have hlen : p.W ≤ p.N ∧ p.wlen.toNat ≤ p.N := by
    simpa [Check.passes] using firstError_eq_none.mp hc .paramW (by simp [checks])
  have hL : p.L ≤ p.N := by
    unfold Params.L
    split
    · exact Nat.le_refl _
    · exact hlen.2
  exact weight_congr pol fun k hk => h.readCoeff_eq (hk.trans_le hL)

/-- The completion of an accepted command: agreement on its sources gives agreement on its destination (R80, R81). -/
theorem commandEffect_same {i : Instr} {p : Params} {s t : State} {bd : Build}
    (h : AgreeOn (sourceCells i p.public) s t) (hc : firstError bd p (checks i) = none) :
    AgreeOn (destCells i p.public) (commandEffect i p s) (commandEffect i p t) := by
  cases i with
  | nop => exact h
  | sfreeze => exact { h with fout := rfl }
  | freeze d a => exact h.writeCoeffs_same d fun k hk => by rw [h.coeff_eq hk]
  | add d a b r =>
    exact h.writeLanes_same d r fun k hk => by rw [addLane, addLane, h.left.coeff_eq hk, h.right.coeff_eq hk]
  | sub d a b r =>
    exact h.writeLanes_same d r fun k hk => by rw [subLane, subLane, h.left.coeff_eq hk, h.right.coeff_eq hk]
  | smul d a r => exact h.writeLanes_same d r fun k hk => by rw [smulLane, smulLane, h.coeff_eq hk]
  | mul d a b =>
    have hprod : mulResult p.M p.N (coeff t a) (coeff t b) = mulResult p.M p.N (coeff s a) (coeff s b) :=
      mulResult_congr p.M (fun k hk => h.left.coeff_eq hk) fun k hk => h.right.coeff_eq hk
    exact h.writeCoeffs_same d fun k _ => by rw [hprod]
  | wcheck d a pol =>
    have hw := h.weight_eq hc
    exact { h.writeCoeffs_same d fun k hk => by rw [hw, h.readCoeff_eq hk] with
      wmask := congrArg (fun w => wmaskWord (weightMask w p.W)) hw }
  | top d a => exact h.writeCoeffs_same d fun k hk => by rw [h.coeff_eq hk]
  | topenc a => exact h.writeBufs_same p.off fun j hj => topencByte_congr (fun k hk => h.readCoeff_eq hk) hj
  | topdec d => exact h.writeCoeffs_same d fun k hk => topdecValue_congr (fun j hj => h.readBuf_eq hj) hk
  | inenc a => exact h.writeBufs_same p.off fun j _ => inencBits_congr (fun k hk => h.readCoeff_eq hk) j 8
  | indec d => exact h.writeCoeffs_same d fun k hk => indecValue_congr (fun j hj => h.readBuf_eq hj) hk

end AgreeOn

/-- Settles O59: outside the destination by the frame of an effect, in it by agreement on the sources. -/
theorem commandsReadAndWriteOnlyPublicCells : Obligations.CommandsReadAndWriteOnlyPublicCells := by
  intro i s s' f hf hf' hc hbyte hfout hwmask hovf
  have hsource : AgreeOn (sourceCells i f.params.public) s s' := ⟨hbyte, hfout, hwmask, hovf⟩
  obtain ⟨hdest, hout, hmask, hflag⟩ := hsource.commandEffect_same hc
  exact ⟨_, _, exec_completes i hf, exec_completes i hf',
    fun x hx => ⟨readByte_commandEffect_other hx, readByte_commandEffect_other hx⟩, hdest, hout, hmask, hflag⟩

/-! ### START and completion as steps (R74 to R76) -/

/-- Settles O6: the write of CTRL stores IE, then START decodes CMD. -/
theorem startRunsTheDecodedCommand : Obligations.StartRunsTheDecodedCommand :=
  fun _ _ _ _ h hstart hsrst hf hd => step_start hf hd h hstart hsrst

/-- Settles O7: each form of a completion is the completion of the command in flight, which its meaning gives. -/
theorem completionRunsTheCommandInFlight : Obligations.CompletionRunsTheCommandInFlight := by
  intro s rest f i hnext hf hd
  rw [step_completion hnext, complete_decodes (s := { s with agenda := rest }) hf hd]
  exact (exec_completes i (s := { s with agenda := rest }) hf).symm

/-- Settles O11: the completion of a meaning, field by field. -/
theorem anAcceptedCommandCannotFail : Obligations.AnAcceptedCommandCannotFail :=
  fun i _ f hf => ⟨_, exec_completes i hf, rfl, rfl, commandEffect_err i f.params _, commandEffect_errcode i f.params _⟩

/-- Settles O12: the START accepts, and the completion finds the copy in flight. -/
theorem startThenCompletionRunsTheCommand : Obligations.StartThenCompletionRunsTheCommand := by
  intro s v rest i hnext hstart hsrst hf hd hc
  have haccept : step s = .next (accept { s with agenda := .completion :: rest, ie := v.getLsbD 2 }) :=
    (startRunsTheDecodedCommand s v _ i hnext hstart hsrst hf hd).trans (exec_accepts hf hc)
  rw [run_two haccept]
  exact completionRunsTheCommandInFlight _ rest ⟨s.cmd, s.params⟩ i (.inl rfl) rfl hd

/-- Settles O14: NOP's effect is nothing and it has no checks; the spec's example is START and completion from reset. -/
theorem nopOnlySetsDone : Obligations.NopOnlySetsDone := by
  have hnop : decode State.reset.cmd = .ok .nop := by decide
  refine ⟨fun s f hf => exec_completes .nop hf, fun s hf => exec_accepts hf rfl, hnop, fun rest => ?_⟩
  have hrun := startThenCompletionRunsTheCommand
    { State.reset with agenda := .hostWrite 0x010 1#32 :: .completion :: rest } 1#32 rest .nop rfl (by decide)
    (by decide) rfl hnop rfl
  have hstatus : 0#28 ++ BitVec.ofBool false ++ BitVec.ofBool false ++ BitVec.ofBool true ++ BitVec.ofBool false =
      0x2#32 := by decide
  exact ⟨_, hrun.trans (exec_completes .nop rfl), hstatus⟩

/-! ### The copy in flight (R45, R75) -/

/-- An effect sets or leaves OVF by the cells it reads and by OVF (R92). -/
theorem commandEffect_ovf_congr {s t : State} (hm : t.mem = s.mem) (he : t.epoch = s.epoch) (ho : t.ovf = s.ovf)
    (i : Instr) (p : Params) : (commandEffect i p t).ovf = (commandEffect i p s).ovf := by
  have hint : coeff t = coeff s := by funext b k; simp only [coeff, readCoeff_funext hm he]
  have lanes (d : Nat) (r : Bool) {e e' : Nat → Int} (h : ∀ k, k < p.N → e' k = e k) :
      (writeLanes d r e' p t).ovf = (writeLanes d r e p s).ovf := by
    simp only [writeLanes_ovf, ovfAfter, anyOverflow_congr h, ho]
  cases i with
  | add d a b r => exact lanes d r fun k _ => by rw [addLane, addLane, hint]
  | sub d a b r => exact lanes d r fun k _ => by rw [subLane, subLane, hint]
  | smul d a r => exact lanes d r fun k _ => by rw [smulLane, smulLane, hint]
  | _ => simp [commandEffect, ho]

/-- An effect neither reads nor moves CMD and the parameter registers: it computes from the copy (R45, R75). -/
theorem commandEffect_operands (i : Instr) (p : Params) (s : State) (c : Word) (q : Params) :
    commandEffect i p { s with cmd := c, params := q } = { commandEffect i p s with cmd := c, params := q } := by
  have hmem := commandEffect_mem_congr (s := s) (t := { s with cmd := c, params := q }) rfl rfl i p
  have hfout := commandEffect_fout_congr (s := s) (t := { s with cmd := c, params := q }) rfl i p
  have hwmask := commandEffect_wmask_congr (s := s) (t := { s with cmd := c, params := q }) rfl rfl rfl i p
  have hovf := commandEffect_ovf_congr (s := s) (t := { s with cmd := c, params := q }) rfl rfl rfl i p
  -- equal states, field by field: the left side is read as the record of its own fields
  rw [State.mk.injEq (commandEffect i p _).build]
  simp [hmem, hfout, hwmask, hovf]

/-- Settles O10: the acceptance is `accept`, and the completion's effect takes the copy in flight. -/
theorem acceptanceTakesTheCopyTheCommandRunsOn : Obligations.AcceptanceTakesTheCopyTheCommandRunsOn := by
  refine ⟨fun s t f hf hstart hflight => ?_, fun i s f c p hf => ⟨_, exec_completes i hf, ?_⟩⟩
  · rcases startCommand_cases hf hstart with ⟨code, -, -, rfl⟩ | ⟨i, -, -, rfl⟩
    · cases hf.symm.trans hflight
    · cases hflight
      exact ⟨rfl, rfl⟩
  · rw [exec_completes i (s := { s with cmd := c, params := p }) hf]
    exact congrArg (fun t => Host.Outcome.next (finish t)) (commandEffect_operands i f.params s c p)

/-! ### The one command in flight (R77) -/

theorem readTarget_inflight (tg : Target) (s : State) : (readTarget tg s).inflight = s.inflight := by
  obtain ⟨w, k, hread⟩ := readTarget_frame tg s
  rw [hread]

theorem writeStatus_inflight (v : Word) (s : State) : (writeStatus v s).inflight = s.inflight := by
  rw [writeStatus_eq]

/-- A host write leaves the command in flight alone, but for the soft reset (R57, R130). -/
theorem writeTarget_inFlight_cases {tg : Target} {v : Word} {s t : State} {f : InFlight} (hf : s.inflight = some f)
    (h : writeTarget tg v s = .next t) :
    t.inflight = some f ∨ (tg = .register .ctrl ∧ v.getLsbD 1 = true ∧ t.inflight = none) := by
  have hbusy : s.inflight ≠ none := by simp [hf]
  rcases writeTarget_cases h with ⟨htg, hsrst, rfl⟩ | ⟨-, -, -, hidle, -⟩ | ⟨-, -, -, rfl⟩ | ⟨-, -, -, -, rfl⟩ |
    ⟨-, rfl⟩ | ⟨r, -, -, hidle, -⟩ | ⟨b, i, -, hidle, -⟩ | ⟨k, -, hidle, -⟩ | ⟨-, rfl⟩ | rfl
  · exact .inr ⟨htg, hsrst, rfl⟩
  · exact absurd hidle hbusy
  · exact .inl hf
  · exact .inl hf
  · exact .inl ((writeStatus_inflight v s).trans hf)
  · exact absurd hidle hbusy
  · exact absurd hidle hbusy
  · exact absurd hidle hbusy
  · exact .inl hf
  · exact .inl hf

/-- Settles O13, event by event. -/
theorem oneCommandAtATime : Obligations.OneCommandAtATime := by
  intro s t f hf hstep
  rcases step_cases hstep with ⟨rest, hnext, hc⟩ | ⟨off, rest, -, -, -, rfl⟩ | ⟨off, v, rest, hnext, -, -, hw⟩ |
    ⟨k, rest, -, hidle, -⟩ | ⟨k, rest, -, -, rfl⟩ | ⟨rest, hnext, rfl⟩
  · rcases complete_cases hc with ⟨hidle, -⟩ | ⟨g, i, -, -, rfl⟩
    · cases hf.symm.trans hidle
    · exact .inr ⟨rfl, .inl ⟨rest, hnext⟩⟩
  · exact .inl ((readTarget_inflight _ _).trans hf)
  · rcases writeTarget_inFlight_cases (s := { s with agenda := rest }) hf hw with hkept | ⟨htg, hsrst, hnone⟩
    · exact .inl hkept
    · obtain rfl : off = 0x010 := target_eq_register htg
      exact .inr ⟨hnone, .inr (.inl ⟨v, rest, hnext, hsrst⟩)⟩
  · cases hf.symm.trans hidle
  · exact .inl hf
  · exact .inr ⟨rfl, .inr (.inr ⟨rest, hnext⟩)⟩

/-! ### A defined event has a next state (R76, R116, R139) -/

/-- Every START is answered: a bad word is rejected, a command's meaning accepts or rejects it (R74, R116). -/
theorem startCommand_next (s : State) : ∃ t, startCommand s = .next t := by
  unfold startCommand
  split
  · exact exec_next _ s
  · exact ⟨_, rfl⟩
  · exact ⟨_, rfl⟩

theorem writeCtrl_next (v : Word) (s : State) : ∃ t, writeCtrl v s = .next t := by
  simp only [writeCtrl]
  split
  · exact ⟨_, rfl⟩
  · split
    · split
      · exact ⟨_, rfl⟩
      · exact startCommand_next _
    · exact ⟨_, rfl⟩

theorem writeTarget_next (tg : Target) (v : Word) (s : State) : ∃ t, writeTarget tg v s = .next t := by
  unfold writeTarget
  split
  · exact writeCtrl_next v s
  all_goals exact ⟨_, rfl⟩

namespace State.Inv

variable {s : State}

/-- Under the invariant the word in flight decodes, so its completion has a next state (R74, R76). -/
theorem complete_next (h : s.Inv) : ∃ t, Machine.complete s = .next t := by
  rcases Option.eq_none_or_eq_some s.inflight with hf | ⟨f, hf⟩
  · exact ⟨s, complete_idle hf⟩
  · obtain ⟨i, hd, -⟩ := h.accepted f hf
    exact ⟨_, complete_decodes hf hd⟩

theorem completion_next (h : s.Inv) {rest : List Event} (hnext : CompletionIsNext s rest) :
    ∃ t, Machine.step s = .next t := by
  rw [step_completion hnext]
  exact (h.setAgenda rest).complete_next

/-- A WAIT is a read of STATUS or the completion it waits for (R73, log 20). -/
theorem wait_next (h : s.Inv) {polls : Nat} {rest : List Event} (hnext : s.agenda = .hostWait polls :: rest) :
    ∃ t, Machine.step s = .next t := by
  by_cases hf : s.inflight = none
  · exact ⟨_, step_wait_idle hnext hf⟩
  · cases polls with
    | zero => exact h.completion_next (.inr (.inr ⟨hf, hnext, rest, rfl⟩))
    | succ k => exact ⟨_, step_wait_poll hnext hf⟩

end State.Inv

/-- Settles O54, event by event. -/
theorem definedEventsNeverStopTheMachine : Obligations.DefinedEventsNeverStopTheMachine := by
  intro s hinv hdef
  cases ha : s.agenda with
  | nil => exact hinv.completion_next (.inr (.inl ⟨ha, rfl⟩))
  | cons e rest =>
    have he := hdef e rest ha
    cases e with
    | hostRead off => exact ⟨_, step_read ha he.1 he.2⟩
    | hostWrite off v =>
      rw [step_write ha he.1 he.2]
      exact writeTarget_next _ v _
    | hostOther bits off => cases he
    | hostWait polls => exact hinv.wait_next ha
    | completion => exact hinv.completion_next (.inl ha)
    | hardReset => exact ⟨_, step_hardReset ha⟩

end Sys2Proof.Machine
end

section
/-! SUPPORT. The scalar field: the centered residue (R86 to R88), and the completions of SFREEZE and FREEZE (R89, R90). -/

namespace Sys2Proof.Machine

/-! ### The centered residue (R86 to R88) -/

section Freeze

variable {M : Nat} {x y r : Int}

/-- freeze_M(x) differs from x by a multiple of M: r is x - (x / M)·M, and the correction takes off one M more. -/
theorem dvd_sub_freeze (M : Nat) (x : Int) : (M : Int) ∣ x - freeze M x := by
  have hmod : (M : Int) ∣ x - x % M := Int.dvd_self_sub_emod
  simp only [freeze]
  split
  · rw [← sub_add]
    exact hmod.add (Int.dvd_refl _)
  · exact hmod

/-- freeze_M(x) is centered: the correction is made exactly for the residues above M / 2. -/
theorem freeze_centered (hM : 1 ≤ M) (x : Int) : -(M : Int) < 2 * freeze M x ∧ 2 * freeze M x ≤ M := by
  have hlow : 0 ≤ x % (M : Int) := Int.emod_nonneg x (by omega)
  have hhigh : x % (M : Int) < M := Int.emod_lt_of_pos x (by omega)
  simp only [freeze]
  split <;> omega

/-- Two centered numbers that differ by a multiple of M are equal: they differ by less than M. -/
theorem eq_of_dvd_sub_of_centered (h : (M : Int) ∣ x - y) (hx : -(M : Int) < 2 * x ∧ 2 * x ≤ M)
    (hy : -(M : Int) < 2 * y ∧ 2 * y ≤ M) : x = y := by
  have hclose : |x - y| < M := abs_lt.mpr ⟨by omega, by omega⟩
  exact Int.sub_eq_zero.mp (Int.eq_zero_of_abs_lt_dvd h hclose)

theorem eq_freeze_iff (hM : 1 ≤ M) :
    r = freeze M x ↔ (M : Int) ∣ x - r ∧ -(M : Int) < 2 * r ∧ 2 * r ≤ M := by
  constructor
  · rintro rfl
    exact ⟨dvd_sub_freeze M x, freeze_centered hM x⟩
  · rintro ⟨hdvd, hr⟩
    have hboth : (M : Int) ∣ r - freeze M x := by
      have hdiff := (dvd_sub_freeze M x).sub hdvd
      rwa [sub_sub_sub_cancel_left] at hdiff
    exact eq_of_dvd_sub_of_centered hboth hr (freeze_centered hM x)

/-- Congruent numbers have one centered residue. -/
theorem freeze_eq_of_dvd_sub (hM : 1 ≤ M) (h : (M : Int) ∣ x - y) : freeze M x = freeze M y := by
  have hdvd : (M : Int) ∣ x - freeze M y := by
    have hsum := h.add (dvd_sub_freeze M y)
    rwa [sub_add_sub_cancel] at hsum
  exact ((eq_freeze_iff hM).mpr ⟨hdvd, freeze_centered hM y⟩).symm

/-- A centered residue of a 16-bit modulus fits a coefficient (R87). -/
theorem toInt_wrap16_freeze {m : Half} (hm : m.toNat ≠ 0) (x : Int) :
    (wrap16 (freeze m.toNat x)).toInt = freeze m.toNat x := by
  have hcentered := freeze_centered (M := m.toNat) (by omega) x
  have hwidth := m.isLt
  exact toInt_wrap16 (by omega) (by omega)

end Freeze

/-- Settles O27: the residue is congruent and centered, and there is only one such number. -/
theorem freezeIsTheUniqueCenteredResidue : Obligations.FreezeIsTheUniqueCenteredResidue :=
  fun _ _ _ hM => eq_freeze_iff hM

/-- Settles O28: each range is the integers r with -M < 2r ≤ M. -/
theorem freezeRange : Obligations.FreezeRange := by
  intro M x hM
  have hcentered := freeze_centered hM x
  exact ⟨fun hodd => by omega, fun heven => by omega, fun hsize => by omega⟩

/-- Settles O29: the last three laws are of congruent numbers, which have one centered residue. -/
theorem freezeLaws : Obligations.FreezeLaws := by
  intro M x y k hM
  have hcong : (M : Int) ∣ freeze M x - x := dvd_sub_comm.mp (dvd_sub_freeze M x)
  refine ⟨hcong, freeze_eq_of_dvd_sub hM hcong, freeze_eq_of_dvd_sub hM ?multiple, freeze_eq_of_dvd_sub hM ?sum⟩
  case multiple =>
    rw [add_sub_cancel_left]
    exact Int.dvd_mul_left k M
  case sum =>
    rw [add_sub_add_right_eq_sub]
    exact dvd_sub_freeze M x

/-! ### Completions (R76) -/

/-- The frame of a completion: the effect leaves every cell outside the destination alone, and moves no register but
OVF, FOUT and WMASK. -/
theorem completionFrame_finish_commandEffect {i : Instr} {p : Params} {touched : Nat → Prop} (s : State)
    (h : ∀ x ∈ destCells i p.public, touched x) : CompletionFrame s (finish (commandEffect i p s)) touched := by
  constructor
  case cells => exact fun x hx => readByte_commandEffect_other (s := s) fun hmem => hx (h x hmem)
  all_goals simp

/-! ### SFREEZE and FREEZE (R89, R90) -/

/-- {FIN_HI, FIN_LO} as a signed 64-bit number (R65). -/
theorem Params.x_eq (p : Params) : p.x = p.finHi.toInt * 2 ^ 32 + p.finLo.toNat := by
  have happend : p.x = 2 ^ 32 * p.finHi.toInt + p.finLo.toNat := BitVec.toInt_append
  rw [happend, mul_comm]

/-- FOUT's sign extension keeps the residue, which fits 16 bits (R89). -/
theorem toInt_sfreezeResult {p : Params} (hM : p.pm.toNat ≠ 0) : (sfreezeResult p).toInt = freeze p.pm.toNat p.x := by
  rw [sfreezeResult, BitVec.toInt_signExtend_of_le (by decide)]
  exact toInt_wrap16_freeze hM p.x

/-- Settles O15: the effect of SFREEZE is its result in FOUT, and it has no destination cells. -/
theorem sfreezeLeavesTheResidueInFout : Obligations.SfreezeLeavesTheResidueInFout := by
  intro s f hf hM
  have hcells (x : Nat) (hx : x ∈ destCells .sfreeze f.params.public) : False := List.not_mem_nil hx
  refine ⟨_, exec_completes .sfreeze hf, completionFrame_finish_commandEffect s hcells, ?fout, rfl, rfl⟩
  case fout => exact (toInt_sfreezeResult hM).trans (congrArg _ f.params.x_eq)

/-- Settles O16: the destination cells of FREEZE are its lanes of D, and each holds the residue, which fits it. -/
theorem freezeReducesEveryLane : Obligations.FreezeReducesEveryLane := by
  intro d a s f hf hM
  refine ⟨_, exec_completes (.freeze d a) hf,
    completionFrame_finish_commandEffect s (fun x hx => mem_bankCells.mp hx), fun k hk => ?lanes, ?_, ?_, ?_⟩
  case lanes =>
    have hlane : readCoeff (finish (commandEffect (.freeze d a) f.params s)) d k =
        wrap16 (freeze f.params.pm.toNat (coeff s a k)) := readCoeff_writeCoeffs_lane _ _ _ hk
    rw [coeff, hlane, toInt_wrap16_freeze hM]
  all_goals simp [commandEffect]

end Sys2Proof.Machine
end

section
/-! SUPPORT. The lane-wise ring commands ADD, SUB and SMUL (R91 to R96): what a narrowed lane reads as, when OVF is set,
and the one completion that the three share. -/

namespace Sys2Proof.Machine

/-- What a narrowed lane reads as: the centered residue with R = 1, the 16-bit wrap with R = 0 (R92). -/
theorem toInt_narrow {r : Bool} {m : Half} (hM : r = true → m.toNat ≠ 0) (e : Int) :
    (narrow r m.toNat e).toInt = if r = true then freeze m.toNat e else Int.bmod e 65536 := by
  cases r with
  | true => exact toInt_wrap16_freeze (hM rfl) e
  | false => exact BitVec.toInt_ofInt e

theorem ovfAfter_eq_true {r : Bool} {e : Nat → Int} {n : Nat} {old : Bool} :
    ovfAfter r e n old = true ↔ old = true ∨ (r = false ∧ ∃ i, i < n ∧ (e i < -32768 ∨ 32767 < e i)) := by
  simp only [ovfAfter, Bool.or_eq_true, Bool.and_eq_true, Bool.not_eq_true', anyOverflow_eq_true]

/-- The completion of a command whose effect is a run of narrowed lanes (R91, R92): it depends on the command only
through the exact lane values `e`. -/
theorem exists_writeLanes_completion {i : Instr} {d : Nat} {r : Bool} {e : Nat → Int} {s : State} {f : InFlight}
    (hf : s.inflight = some f) (hM : r = true → f.params.pm.toNat ≠ 0)
    (heffect : commandEffect i f.params s = writeLanes d r e f.params s)
    (hcells : destCells i f.params.public = bankCells d f.params.pn.toNat) :
    ∃ t, exec i s = .next t ∧ CompletionFrame s t (LaneCell d f.params.pn.toNat) ∧
      (∀ k, k < f.params.pn.toNat →
        coeff t d k = if r = true then freeze f.params.pm.toNat (e k) else Int.bmod (e k) 65536) ∧
      (t.ovf = true ↔ s.ovf = true ∨
        (r = false ∧ ∃ k, k < f.params.pn.toNat ∧ (e k < -32768 ∨ 32767 < e k))) ∧
      t.fout = s.fout ∧ t.wmask = s.wmask := by
  refine ⟨_, exec_completes i hf, completionFrame_finish_commandEffect s ?cells, fun k hk => ?lanes, ?ovf, ?fout,
    ?wmask⟩
  case cells => exact hcells ▸ fun x hx => mem_bankCells.mp hx
  case lanes =>
    have hlane : readCoeff (finish (writeLanes d r e f.params s)) d k = narrow r f.params.pm.toNat (e k) :=
      readCoeff_writeCoeffs_lane _ _ _ hk
    rw [heffect, coeff, hlane, toInt_narrow hM]
  case ovf =>
    rw [heffect]
    exact ovfAfter_eq_true
  case fout => simp [heffect]
  case wmask => simp [heffect]

/-- Settles O17: the lanes are those of `addLane`. -/
theorem addNarrowsEveryLane : Obligations.AddNarrowsEveryLane :=
  fun _ _ _ _ _ _ hf hM => exists_writeLanes_completion hf hM rfl rfl

/-- Settles O18: the lanes are those of `subLane`. -/
theorem subNarrowsEveryLane : Obligations.SubNarrowsEveryLane :=
  fun _ _ _ _ _ _ hf hM => exists_writeLanes_completion hf hM rfl rfl

/-- Settles O19: the lanes are those of `smulLane`, with n from SCALAR. -/
theorem smulNarrowsEveryLane : Obligations.SmulNarrowsEveryLane :=
  fun _ _ _ _ _ hf hM => exists_writeLanes_completion hf hM rfl rfl

end Sys2Proof.Machine
end

section
/-! SUPPORT. The raw convolution and the fold of MUL (R97), coefficient by coefficient: the accumulators in closed form,
and the fold in the integers modulo M, where the freezes between its steps change nothing (R98). -/

namespace Sys2Proof.Machine

/-! ### The convolution of two coefficient sequences -/

section Convolution

variable {R : Type} [CommRing R]

/-- Coefficient `j` of the product of the first `m` coefficients of `A` and the first `n` of `B` (R98). -/
def convolution (A B : Nat → R) (m n j : Nat) : R :=
  ∑ i ∈ Finset.range m, if i ≤ j ∧ j - i < n then A i * B (j - i) else 0

/-- Coefficient `i` of the product after the fold of x^(N+k) into x^k and x^(k+1), with no freeze (R98). -/
def foldedConvolution (A B : Nat → R) (n i : Nat) : R :=
  convolution A B n n i + (if i + 2 ≤ n then convolution A B n n (n + i) else 0) +
    (if 1 ≤ i then convolution A B n n (n + i - 1) else 0)

/-- The polynomial of the first `n` coefficients of a sequence. -/
noncomputable def toPolynomial (n : Nat) (A : Nat → R) : Polynomial R :=
  ∑ i ∈ Finset.range n, Polynomial.monomial i (A i)

variable {A A' B B' : Nat → R} {m n i j k u : Nat}

theorem convolution_congr (hA : ∀ k, k < m → A' k = A k) (hB : ∀ k, k < n → B' k = B k) :
    convolution A' B' m n j = convolution A B m n j := by
  refine Finset.sum_congr rfl fun i hi => ?_
  split
  · next hj => rw [hA i (Finset.mem_range.mp hi), hB (j - i) hj.2]
  · rfl

theorem foldedConvolution_congr (hA : ∀ k, k < n → A' k = A k) (hB : ∀ k, k < n → B' k = B k) :
    foldedConvolution A' B' n i = foldedConvolution A B n i := by
  simp only [foldedConvolution, convolution_congr hA hB]

theorem intCast_convolution (A B : Nat → Int) :
    ((convolution A B m n j : Int) : R) = convolution (fun k => (A k : R)) (fun k => (B k : R)) m n j := by
  simp only [convolution, Int.cast_sum, Int.cast_ite, Int.cast_mul, Int.cast_zero]

theorem intCast_foldedConvolution (A B : Nat → Int) :
    ((foldedConvolution A B n i : Int) : R) = foldedConvolution (fun k => (A k : R)) (fun k => (B k : R)) n i := by
  simp only [foldedConvolution, Int.cast_add, Int.cast_ite, Int.cast_zero, intCast_convolution]

theorem coeff_toPolynomial : (toPolynomial n A).coeff j = if j < n then A j else 0 := by
  simp [toPolynomial, Polynomial.coeff_monomial]

/-- The convolution is the coefficient of the product of polynomials. -/
theorem coeff_toPolynomial_mul : (toPolynomial m A * toPolynomial n B).coeff j = convolution A B m n j := by
  rw [toPolynomial, Finset.sum_mul, Polynomial.finsetSum_coeff, convolution]
  refine Finset.sum_congr rfl fun i _ => ?_
  rw [← Polynomial.C_mul_X_pow_eq_monomial, mul_assoc, Polynomial.coeff_C_mul, Polynomial.coeff_X_pow_mul',
    coeff_toPolynomial, mul_ite, mul_zero, mul_ite, mul_zero, ite_and]

theorem convolution_comm (A B : Nat → R) (m n j : Nat) : convolution A B m n j = convolution B A n m j := by
  rw [← coeff_toPolynomial_mul, mul_comm, coeff_toPolynomial_mul]

/-- The product with x^u shifts the coefficients by u. -/
theorem convolution_single (hu : u < n) (hB : ∀ k, k < n → B k = if k = u then 1 else 0) :
    convolution A B n n j = if u ≤ j ∧ j - u < n then A (j - u) else 0 := by
  rw [convolution_comm, convolution, Finset.sum_eq_single_of_mem u (Finset.mem_range.mpr hu)]
  · rw [hB u hu, if_pos rfl, one_mul]
  · intro k hk hne
    rw [hB k (Finset.mem_range.mp hk), if_neg hne, zero_mul, ite_self]

theorem toPolynomial_mul (A B : Nat → R) (n : Nat) :
    toPolynomial n A * toPolynomial n B = toPolynomial (n + (n - 1)) (convolution A B n n) := by
  ext j
  rw [coeff_toPolynomial_mul, coeff_toPolynomial]
  split
  · rfl
  · next hj => exact Finset.sum_eq_zero fun i hi => if_neg (by have := Finset.mem_range.mp hi; omega)

theorem toPolynomial_congr (hA : ∀ k, k < n → A' k = A k) : toPolynomial n A' = toPolynomial n A :=
  Finset.sum_congr rfl fun k hk => by rw [hA k (Finset.mem_range.mp hk)]

theorem toPolynomial_add : toPolynomial n (fun k => A k + B k) = toPolynomial n A + toPolynomial n B := by
  simp only [toPolynomial, map_add, Finset.sum_add_distrib]

/-- The coefficients from m on are those of a multiple of x^m. -/
theorem toPolynomial_append :
    toPolynomial (m + n) A = toPolynomial m A + Polynomial.X ^ m * toPolynomial n (fun k => A (m + k)) := by
  simp only [toPolynomial, Finset.sum_range_add, Finset.mul_sum, Polynomial.X_pow_mul_monomial, add_comm]

/-- Without its last coefficient a sequence is one shorter. -/
theorem toPolynomial_dropLast : toPolynomial n (fun k => if k + 2 ≤ n then A k else 0) = toPolynomial (n - 1) A := by
  cases n with
  | zero => rfl
  | succ n =>
    rw [toPolynomial, Finset.sum_range_succ, if_neg (by omega), map_zero, add_zero]
    exact Finset.sum_congr rfl fun k hk => by rw [if_pos (by have := Finset.mem_range.mp hk; omega)]

/-- Without its first coefficient a sequence is a multiple of x. -/
theorem toPolynomial_dropFirst : toPolynomial n (fun k => if 1 ≤ k then A k else 0) =
    Polynomial.X * toPolynomial (n - 1) (fun k => A (k + 1)) := by
  cases n with
  | zero => simp [toPolynomial]
  | succ n =>
    rw [toPolynomial, Finset.sum_range_succ', if_neg (by omega), map_zero, add_zero, toPolynomial, Finset.mul_sum]
    exact Finset.sum_congr rfl fun k _ => by rw [if_pos (by omega), Polynomial.X_mul_monomial]

/-- The fold replaces x^(N+k) by x^k·(x + 1): it takes a multiple of x^N - x - 1 off the product (R98). -/
theorem toPolynomial_mul_sub_foldedConvolution (A B : Nat → R) (n : Nat) :
    toPolynomial n A * toPolynomial n B - toPolynomial n (foldedConvolution A B n) =
      (Polynomial.X ^ n - Polynomial.X - 1) *
        toPolynomial (n - 1) (fun k => convolution A B n n (n + k)) := by
  have hfolded : toPolynomial n (foldedConvolution A B n) = toPolynomial n (convolution A B n n) +
      toPolynomial (n - 1) (fun k => convolution A B n n (n + k)) +
        Polynomial.X * toPolynomial (n - 1) (fun k => convolution A B n n (n + k)) :=
    toPolynomial_add.trans (congrArg₂ (· + ·) (toPolynomial_add.trans (congrArg _ toPolynomial_dropLast))
      toPolynomial_dropFirst)
  rw [toPolynomial_mul, toPolynomial_append, hfolded]
  ring

/-- A sequence D of the folded coefficients is the product modulo x^N - x - 1 (R98). -/
theorem dvd_toPolynomial_mul_sub {D : Nat → R} (hD : ∀ k, k < n → D k = foldedConvolution A B n k) :
    Polynomial.X ^ n - Polynomial.X - 1 ∣ toPolynomial n A * toPolynomial n B - toPolynomial n D := by
  rw [toPolynomial_congr hD, toPolynomial_mul_sub_foldedConvolution]
  exact dvd_mul_right _ _

end Convolution

/-! ### The accumulators of MUL (R97) -/

section Accumulators

variable {A B : Nat → Int} {c : List Int} {ai v x : Int} {M m n i j k : Nat}

theorem getD_set (hj : j < c.length) : (c.set j x).getD k 0 = if k = j then x else c.getD k 0 := by
  by_cases h : k = j
  · rw [if_pos h, h, List.getD_eq_getElem?_getD, List.getElem?_set_self hj, Option.getD_some]
  · rw [if_neg h, List.getD_eq_getElem?_getD, List.getElem?_set_ne (Ne.symm h), List.getD_eq_getElem?_getD]

@[simp] theorem length_accumulate : (accumulate j v c).length = c.length := List.length_set

theorem getD_accumulate (hj : j < c.length) :
    (accumulate j v c).getD k 0 = c.getD k 0 + if k = j then v else 0 := by
  rw [accumulate, getD_set hj]
  split
  · next h => rw [h]
  · rw [add_zero]

@[simp] theorem length_convolveRow : (convolveRow B ai i n c).length = c.length := by
  induction n with
  | zero => rfl
  | succ n ih => rw [convolveRow, length_accumulate, ih]

/-- Row i adds A[i]·B[j-i] to accumulator j. -/
theorem getD_convolveRow (hfit : i + n ≤ c.length) :
    (convolveRow B ai i n c).getD j 0 = c.getD j 0 + if i ≤ j ∧ j - i < n then ai * B (j - i) else 0 := by
  induction n with
  | zero => simp [convolveRow]
  | succ n ih =>
    rw [convolveRow, getD_accumulate (by rw [length_convolveRow]; omega), ih (by omega), add_assoc]
    congr 1
    by_cases hlast : j = i + n
    · simp [hlast]
    · simp only [if_neg hlast, add_zero, show (i ≤ j ∧ j - i < n + 1) ↔ (i ≤ j ∧ j - i < n) by omega]

@[simp] theorem length_convolveRows : (convolveRows A B n m c).length = c.length := by
  induction m with
  | zero => rfl
  | succ m ih => rw [convolveRows, length_convolveRow, ih]

theorem getD_convolveRows (hfit : m + n ≤ c.length + 1) :
    (convolveRows A B n m c).getD j 0 = c.getD j 0 + convolution A B m n j := by
  induction m with
  | zero => simp [convolveRows, convolution]
  | succ m ih =>
    rw [convolveRows, getD_convolveRow (by rw [length_convolveRows]; omega), ih (by omega), add_assoc]
    simp only [convolution, Finset.sum_range_succ]

theorem length_rawConvolution : (rawConvolution A B n).length = 2 * n - 1 := by
  rw [rawConvolution, length_convolveRows, List.length_replicate]

/-- The first m rows of the raw convolution, from accumulators at 0 (R97). -/
theorem getD_convolveRows_zero (hm : m ≤ n) :
    (convolveRows A B n m (List.replicate (2 * n - 1) 0)).getD j 0 = convolution A B m n j := by
  rw [getD_convolveRows (by rw [List.length_replicate]; omega), List.getD_eq_getElem?_getD,
    List.getElem?_getD_replicate_default_eq, zero_add]

theorem getD_rawConvolution : (rawConvolution A B n).getD j 0 = convolution A B n n j :=
  getD_convolveRows_zero (Nat.le_refl n)

theorem rawConvolution_comm (A B : Nat → Int) (n : Nat) : rawConvolution A B n = rawConvolution B A n := by
  refine List.ext_getElem (by simp only [length_rawConvolution]) fun j hj hj' => ?_
  rw [← List.getD_eq_getElem _ 0 hj, ← List.getD_eq_getElem _ 0 hj', getD_rawConvolution, getD_rawConvolution,
    convolution_comm]

theorem mulResult_comm (M n : Nat) (A B : Nat → Int) : mulResult M n A B = mulResult M n B A := by
  rw [mulResult, rawConvolution_comm, mulResult]

/-! ### The fold (R97, R98) -/

@[simp] theorem length_foldInto : (foldInto M j v c).length = c.length := List.length_set

@[simp] theorem length_foldPosition : (foldPosition M n j c).length = c.length := by
  rw [foldPosition, length_foldInto, length_foldInto]

theorem getD_foldInto (hj : j < c.length) :
    (foldInto M j v c).getD k 0 = if k = j then freeze M (c.getD j 0 + v) else c.getD k 0 :=
  getD_set hj

theorem getD_foldPosition_high (hj : j + 1 < n) (hlen : n ≤ c.length) :
    (foldPosition M n j c).getD (n + k) 0 = c.getD (n + k) 0 := by
  rw [foldPosition, getD_foldInto (by rw [length_foldInto]; omega), if_neg (by omega), getD_foldInto (by omega),
    if_neg (by omega)]

/-- Modulo M a freeze changes nothing (R86). -/
theorem intCast_freeze (M : Nat) (x : Int) : ((freeze M x : Int) : ZMod M) = x :=
  (ZMod.intCast_eq_intCast_iff_dvd_sub _ _ _).mpr (dvd_sub_freeze M x)

theorem freeze_eq_of_intCast_eq {y : Int} (hM : 1 ≤ M) (h : (x : ZMod M) = y) : freeze M x = freeze M y :=
  (freeze_eq_of_dvd_sub hM ((ZMod.intCast_eq_intCast_iff_dvd_sub _ _ _).mp h)).symm

theorem intCast_getD_foldInto (hj : j < c.length) :
    (((foldInto M j v c).getD k 0 : Int) : ZMod M) = (c.getD k 0 : Int) + if k = j then (v : ZMod M) else 0 := by
  rw [getD_foldInto hj]
  split
  · next h => rw [intCast_freeze, h, Int.cast_add]
  · rw [add_zero]

theorem intCast_getD_foldPosition (hj : j + 1 < n) (hlen : n ≤ c.length) :
    (((foldPosition M n j c).getD k 0 : Int) : ZMod M) = (c.getD k 0 : Int) +
      ((if k = j then ((c.getD (n + j) 0 : Int) : ZMod M) else 0) +
        if k = j + 1 then ((c.getD (n + j) 0 : Int) : ZMod M) else 0) := by
  rw [foldPosition, intCast_getD_foldInto (by rw [length_foldInto]; omega), intCast_getD_foldInto (by omega), add_assoc]

/-- The whole fold modulo M: position N+j is added to the accumulators j and j+1, and is read before any write to it,
as every target lies below N (R98). -/
theorem intCast_getD_foldDown (hm : m < n) (hlen : n ≤ c.length) :
    (((foldDown M n 0 m c).getD k 0 : Int) : ZMod M) = (c.getD k 0 : Int) +
      ∑ j ∈ Finset.range m, ((if k = j then ((c.getD (n + j) 0 : Int) : ZMod M) else 0) +
        if k = j + 1 then ((c.getD (n + j) 0 : Int) : ZMod M) else 0) := by
  induction m generalizing c with
  | zero => simp [foldDown]
  | succ m ih =>
    rw [foldDown, Nat.zero_add, ih (by omega) (by rw [length_foldPosition]; exact hlen),
      intCast_getD_foldPosition (by omega) hlen, Finset.sum_range_succ, add_assoc, add_comm (_ + _) (Finset.sum _ _)]
    simp only [getD_foldPosition_high hm hlen]

/-- The fold of the raw convolution is the closed form of R98, modulo M. -/
theorem intCast_getD_foldDown_rawConvolution (hi : i < n) :
    (((foldDown M n 0 (n - 1) (rawConvolution A B n)).getD i 0 : Int) : ZMod M) =
      (foldedConvolution A B n i : Int) := by
  rw [intCast_getD_foldDown (by omega) (by rw [length_rawConvolution]; omega), Finset.sum_add_distrib]
  simp only [getD_rawConvolution]
  have hfirst : (∑ j ∈ Finset.range (n - 1), if i = j then ((convolution A B n n (n + j) : Int) : ZMod M) else 0) =
      if i + 2 ≤ n then ((convolution A B n n (n + i) : Int) : ZMod M) else 0 := by
    simp only [Finset.sum_ite_eq, Finset.mem_range, show i < n - 1 ↔ i + 2 ≤ n by omega]
  have hsecond : (∑ j ∈ Finset.range (n - 1),
      if i = j + 1 then ((convolution A B n n (n + j) : Int) : ZMod M) else 0) =
        if 1 ≤ i then ((convolution A B n n (n + i - 1) : Int) : ZMod M) else 0 := by
    cases i with
    | zero => simp
    | succ i =>
      simp only [Nat.add_right_cancel_iff, Finset.sum_ite_eq, Finset.mem_range]
      rw [if_pos (by omega), if_pos (by omega), ← add_assoc, Nat.add_sub_cancel]
  rw [hfirst, hsecond, ← add_assoc]
  simp only [foldedConvolution, Int.cast_add, Int.cast_ite, Int.cast_zero]

theorem freeze_zero (M : Nat) : freeze M 0 = 0 := by simp [freeze]

/-- A lane of MUL in closed form (R98): the freezes inside the fold leave its residue alone. -/
theorem getD_mulResult (hM : 1 ≤ M) (hi : i < n) :
    (mulResult M n A B).getD i 0 = freeze M (foldedConvolution A B n i) := by
  rw [mulResult, ← freeze_zero M, List.getD_map]
  exact freeze_eq_of_intCast_eq hM (intCast_getD_foldDown_rawConvolution hi)

end Accumulators

/-! ### Laws of the fold (R99) -/

section FoldLaws

variable {R : Type} [CommRing R] {A B : Nat → R} {n i : Nat}

/-- B = (1, 0, .., 0): the product is A, and what would be folded is 0. -/
theorem foldedConvolution_one (hi : i < n) (hB : ∀ k, k < n → B k = if k = 0 then 1 else 0) :
    foldedConvolution A B n i = A i := by
  have hconv (j : Nat) := convolution_single (A := A) (j := j) (by omega : 0 < n) hB
  have hhigh (j : Nat) (hj : n ≤ j) : convolution A B n n j = 0 := (hconv j).trans (if_neg (by omega))
  have hfirst : (if i + 2 ≤ n then convolution A B n n (n + i) else 0) = 0 :=
    ite_eq_right_iff.mpr fun _ => hhigh _ (by omega)
  have hsecond : (if 1 ≤ i then convolution A B n n (n + i - 1) else 0) = 0 :=
    ite_eq_right_iff.mpr fun h => hhigh _ (by omega)
  rw [foldedConvolution, hfirst, hsecond, add_zero, add_zero, hconv]
  exact if_pos ⟨Nat.zero_le i, hi⟩

/-- B = (0, 1, 0, .., 0): the product is A shifted by one, and only position N, which holds A[N-1], folds. -/
theorem foldedConvolution_x (hn : 2 ≤ n) (hi : i < n) (hB : ∀ k, k < n → B k = if k = 1 then 1 else 0) :
    foldedConvolution A B n i =
      if i = 0 then A (n - 1) else if i = 1 then A 0 + A (n - 1) else A (i - 1) := by
  have hconv (j : Nat) := convolution_single (A := A) (j := j) (by omega : 1 < n) hB
  have hzero : convolution A B n n 0 = 0 := (hconv 0).trans (if_neg (by omega))
  have hlow (j : Nat) (hj : j + 1 < n) : convolution A B n n (j + 1) = A j := (hconv _).trans (if_pos (by omega))
  have hN : convolution A B n n n = A (n - 1) := (hconv n).trans (if_pos (by omega))
  have hhigh (j : Nat) (hj : n < j) : convolution A B n n j = 0 := (hconv j).trans (if_neg (by omega))
  match i with
  | 0 => simp [foldedConvolution, hn, hzero, hN]
  | 1 => simp [foldedConvolution, hlow 0 hi, hhigh (n + 1), hN]
  | i + 2 => simp [foldedConvolution, hlow (i + 1) hi, hhigh (n + (i + 2)), hhigh (n + (i + 1))]

end FoldLaws

/-! ### The completion of MUL (R97 to R99) -/

section Completion

variable {d a b i : Nat} {p : Params}

theorem coeff_commandEffect_mul (s : State) (hM : p.pm.toNat ≠ 0) (hi : i < p.pn.toNat) :
    coeff (finish (commandEffect (.mul d a b) p s)) d i =
      freeze p.pm.toNat (foldedConvolution (coeff s a) (coeff s b) p.pn.toNat i) := by
  have hlane : readCoeff (finish (commandEffect (.mul d a b) p s)) d i =
      wrap16 ((mulResult p.pm.toNat p.pn.toNat (coeff s a) (coeff s b)).getD i 0) := readCoeff_writeCoeffs_lane _ _ _ hi
  rw [coeff, hlane, getD_mulResult (by omega) hi, toInt_wrap16_freeze hM]

theorem commandEffect_mul_comm (d a b : Nat) (p : Params) (s : State) :
    commandEffect (.mul d a b) p s = commandEffect (.mul d b a) p s := by
  simp only [commandEffect, mulResult_comm p.M p.N (coeff s a)]

end Completion

/-- Settles O20: each lane is the closed form of R98, and the fold takes a multiple of x^N - x - 1 off the product. -/
theorem mulIsTheFoldedConvolution : Obligations.MulIsTheFoldedConvolution := by
  intro d a b s f hf _ hM
  refine ⟨_, exec_completes (.mul d a b) hf,
    completionFrame_finish_commandEffect s (fun x hx => mem_bankCells.mp hx),
    fun i hi => coeff_commandEffect_mul s hM hi, fun _ => ?product, ?_, ?_, ?_⟩
  case product =>
    exact dvd_toPolynomial_mul_sub fun k hk => by
      rw [coeff_commandEffect_mul s hM hk, intCast_freeze, intCast_foldedConvolution]
  all_goals simp [commandEffect]

/-- Settles O31, from the closed form of the lanes. -/
theorem mulLaws : Obligations.MulLaws := by
  intro d a b s f hf hN hM
  refine ⟨_, exec_completes (.mul d a b) hf, ?comm, fun hB i hi => ?one, fun hB i hi => ?x,
    fun s' t' hf' hcong ht' i hi => ?residues⟩
  case comm => rw [exec_completes (.mul d b a) hf, commandEffect_mul_comm]
  case one => rw [coeff_commandEffect_mul s hM hi, foldedConvolution_one hi hB]
  case x => rw [coeff_commandEffect_mul s hM hi, foldedConvolution_x hN hi hB]
  case residues =>
    cases (exec_completes (.mul d a b) hf').symm.trans ht'
    rw [coeff_commandEffect_mul s' hM hi, coeff_commandEffect_mul s hM hi]
    refine freeze_eq_of_intCast_eq (by omega) ?_
    rw [intCast_foldedConvolution, intCast_foldedConvolution]
    exact foldedConvolution_congr
      (fun k hk => (ZMod.intCast_eq_intCast_iff_dvd_sub _ _ _).mpr (hcong k hk).1)
      (fun k hk => (ZMod.intCast_eq_intCast_iff_dvd_sub _ _ _).mpr (hcong k hk).2)

end Sys2Proof.Machine
end

section
/-! SUPPORT. The bounds of the exact values that the ring commands and TOP form (R93, R105): they fit the 64-bit
accumulator. -/

namespace Sys2Proof.Machine

/-! ### Operands and their products (R9) -/

theorem abs_coeff_le (s : State) (b i : Nat) : |coeff s b i| ≤ 2 ^ 15 := by
  have hbounds := coeff_bounds s b i
  exact abs_le.mpr ⟨by omega, by omega⟩

theorem abs_toInt_word_le (w : Word) : |w.toInt| ≤ 2 ^ 31 := by
  have hlow := BitVec.le_toInt w
  have hhigh := BitVec.toInt_lt (x := w)
  exact abs_le.mpr ⟨by omega, by omega⟩

theorem abs_mul_le_of_abs_le {x y u v : Int} (hx : |x| ≤ u) (hy : |y| ≤ v) : |x * y| ≤ u * v := by
  rw [abs_mul]
  exact mul_le_mul hx hy (abs_nonneg y) ((abs_nonneg x).trans hx)

theorem abs_coeff_mul_coeff_le (s : State) (a b i k : Nat) : |coeff s a i * coeff s b k| ≤ 2 ^ 30 :=
  abs_mul_le_of_abs_le (abs_coeff_le s a i) (abs_coeff_le s b k)

theorem abs_freeze_le {M : Nat} (hM : 1 ≤ M) (hsize : M ≤ 65535) (x : Int) : |freeze M x| ≤ 2 ^ 15 := by
  have hcentered := freeze_centered hM x
  exact abs_le.mpr ⟨by omega, by omega⟩

/-! ### The raw convolution (R93) -/

section RawConvolution

variable {A B : Nat → Int} {u : Int} {m n j k : Nat} (hprod : ∀ i l, |A i * B l| ≤ u)
include hprod

theorem abs_term_le (P : Prop) [Decidable P] (i l : Nat) : |if P then A i * B l else 0| ≤ u := by
  split
  · exact hprod i l
  · exact abs_zero.trans_le ((abs_nonneg _).trans (hprod 0 0))

/-- A sum of m products. -/
theorem abs_convolution_le : |convolution A B m n j| ≤ m * u := by
  calc |convolution A B m n j|
      ≤ ∑ i ∈ Finset.range m, |if i ≤ j ∧ j - i < n then A i * B (j - i) else 0| := Finset.abs_sum_le_sum_abs _ _
    _ ≤ (Finset.range m).card • u := Finset.sum_le_card_nsmul _ _ _ fun i _ => abs_term_le hprod _ i (j - i)
    _ = m * u := by rw [Finset.card_range, nsmul_eq_mul]

/-- In row m an accumulator holds at most m + 1 products. -/
theorem abs_getD_convolveRow_le (hm : m < n) (hk : k ≤ n) :
    |(convolveRow B (A m) m k (convolveRows A B n m (List.replicate (2 * n - 1) 0))).getD j 0| ≤ n * u := by
  have hu : 0 ≤ u := (abs_nonneg _).trans (hprod 0 0)
  rw [getD_convolveRow (by rw [length_convolveRows, List.length_replicate]; omega), getD_convolveRows_zero hm.le]
  calc |convolution A B m n j + if m ≤ j ∧ j - m < k then A m * B (j - m) else 0|
      ≤ m * u + u := (abs_add_le _ _).trans (add_le_add (abs_convolution_le hprod) (abs_term_le hprod _ m (j - m)))
    _ = ((m + 1 : Nat) : Int) * u := by push_cast; ring
    _ ≤ n * u := mul_le_mul_of_nonneg_right (Int.ofNat_le.mpr hm) hu

end RawConvolution

/-! ### The fold (R93) -/

/-- Every accumulator lies within `u` of 0. -/
def AccumulatorsWithin (u : Int) (c : List Int) : Prop := ∀ j, |c.getD j 0| ≤ u

theorem accumulatorsWithin_rawConvolution {A B : Nat → Int} {u : Int} {n : Nat} (hprod : ∀ i l, |A i * B l| ≤ u) :
    AccumulatorsWithin (n * u) (rawConvolution A B n) := fun j => by
  rw [getD_rawConvolution]
  exact abs_convolution_le hprod

namespace AccumulatorsWithin

variable {u v : Int} {c : List Int} {M n lo m j : Nat} (hM : 1 ≤ M) (hsize : M ≤ 65535) (hu : 2 ^ 15 ≤ u)
include hM hsize hu

/-- A fold target holds a residue, the others what they held. -/
theorem foldInto (h : AccumulatorsWithin u c) : AccumulatorsWithin u (foldInto M j v c) := fun k => by
  by_cases hj : j < c.length
  · rw [getD_foldInto hj]
    split
    · exact (abs_freeze_le hM hsize _).trans hu
    · exact h k
  · rw [Machine.foldInto, List.set_eq_of_length_le (by omega)]
    exact h k

theorem foldPosition (h : AccumulatorsWithin u c) : AccumulatorsWithin u (foldPosition M n j c) :=
  (h.foldInto hM hsize hu).foldInto hM hsize hu

theorem foldDown (h : AccumulatorsWithin u c) : AccumulatorsWithin u (foldDown M n lo m c) := by
  induction m generalizing c with
  | zero => exact h
  | succ m ih => exact ih (h.foldPosition hM hsize hu)

end AccumulatorsWithin

theorem abs_foldSum_le {u v : Int} {c : List Int} (h : AccumulatorsWithin u c) (hv : |v| ≤ u) (j : Nat) :
    |foldSum j v c| ≤ u + u :=
  (abs_add_le _ _).trans (add_le_add (h j) hv)

/-- A fold of k + m positions folds the upper m, then the lower k. -/
theorem foldDown_add (M n lo k m : Nat) (c : List Int) :
    foldDown M n lo (k + m) c = foldDown M n lo k (foldDown M n (lo + k) m c) := by
  induction m generalizing c with
  | zero => rfl
  | succ m ih => rw [← Nat.add_assoc, foldDown, ih, foldDown, Nat.add_assoc]

/-- The fold of position N+j stands between that of the positions above it and that of those below it (R97). -/
theorem foldDown_at_position {n j : Nat} (M : Nat) (hj : j + 1 < n) (c : List Int) :
    foldDown M n 0 (n - 1) c = foldDown M n 0 j (foldPosition M n j (foldDown M n (j + 1) (n - 2 - j) c)) := by
  have hcount : n - 1 = j + (1 + (n - 2 - j)) := by omega
  rw [hcount, foldDown_add, Nat.zero_add, foldDown_add]
  rfl

/-- Settles O30: products of operands within 2^15 and 2^31, and sums of at most 2048 of them. -/
theorem exactValuesFitTheAccumulator : Obligations.ExactValuesFitTheAccumulator := by
  refine ⟨fun s a b i => ?add, fun s a b i => ?sub, fun p s a i => ?smul,
    fun s a b N m k j hN hm hk => ?convolution, fun s a b N M j hN hM hsize hj => ?fold, fun p s a i => ?top⟩
  case add =>
    have hA := coeff_bounds s a i
    have hB := coeff_bounds s b i
    simp only [addLane]
    omega
  case sub =>
    have hA := coeff_bounds s a i
    have hB := coeff_bounds s b i
    simp only [subLane]
    omega
  case smul => exact abs_le.mp (abs_mul_le_of_abs_le (abs_toInt_word_le p.scalar) (abs_coeff_le s a i))
  case convolution =>
    have hprod := abs_coeff_mul_coeff_le s a b
    have hacc := abs_getD_convolveRow_le hprod (j := j) hm hk
    exact ⟨hacc, hacc.trans (by omega), accumulatorsWithin_rawConvolution hprod j⟩
  case fold =>
    have hraw : AccumulatorsWithin (2 ^ 41) (rawConvolution (coeff s a) (coeff s b) N) := fun k =>
      (accumulatorsWithin_rawConvolution (abs_coeff_mul_coeff_le s a b) k).trans (by omega)
    have habove := hraw.foldDown (n := N) (lo := j + 1) (m := N - 2 - j) hM hsize (by norm_num)
    have hv := habove (N + j)
    exact ⟨foldDown_at_position M hj _, (abs_foldSum_le habove hv j).trans (by norm_num),
      (abs_foldSum_le (habove.foldInto hM hsize (by norm_num)) hv (j + 1)).trans (by norm_num)⟩
  case top =>
    have hsum : |coeff s a i + p.tau0Int| ≤ 2 ^ 15 + 2 ^ 31 :=
      (abs_add_le _ _).trans (add_le_add (abs_coeff_le s a i) (abs_toInt_word_le p.tau0))
    have hprod := abs_mul_le_of_abs_le (abs_toInt_word_le p.tau1) hsum
    exact (abs_add_le _ _).trans (add_le_add hprod (abs_of_nonneg (by norm_num)).le)

end Sys2Proof.Machine
end

section
/-! SUPPORT. The weight check (R100 to R103): the weight as a count, the two outcomes of the mask, and the completion of
WCHECK. -/

namespace Sys2Proof.Machine

/-! ### The weight (R101) -/

theorem counts_eq_ite (pol : WeightPolicy) (v : Half) :
    counts pol v = if pol = .nonzero then decide (v ≠ 0#16) else decide (v = 1#16) := by
  cases pol with
  | nonzero => exact decide_not.symm
  | plusOne => rfl

/-- The weight is the number of coefficients that count under the policy. -/
theorem weight_eq_length_filter (pol : WeightPolicy) (A : Nat → Half) (n : Nat) :
    weight pol A n =
      ((List.range n).filter fun i => if pol = .nonzero then A i ≠ 0#16 else A i = 1#16).length := by
  rw [← List.countP_eq_length_filter]
  induction n with
  | zero => rfl
  | succ n ih => rw [weight, ih, counts_eq_ite, List.range_succ, List.countP_append, List.countP_singleton]

/-- The vector that replaces a failing candidate (R102): W ones, then zeros. -/
def replacement (w i : Nat) : Half := if i < w then 1#16 else 0#16

/-- Only the ones count, under either policy. -/
theorem counts_replacement (pol : WeightPolicy) (w i : Nat) : counts pol (replacement w i) = decide (i < w) := by
  have hone : counts pol 1#16 = true := by cases pol <;> rfl
  have hzero : counts pol 0#16 = false := by cases pol <;> rfl
  unfold replacement
  split <;> simp [*]

theorem weight_replacement (pol : WeightPolicy) (w n : Nat) : weight pol (replacement w) n = min w n := by
  induction n with
  | zero => simp [weight]
  | succ n ih =>
    simp only [weight, ih, counts_replacement, decide_eq_true_eq]
    split <;> omega

/-! ### The mask (R101, R102) -/

/-- With the mask all zeros a coefficient passes in every bit. -/
theorem maskedCoeff_zero (w i : Nat) (v : Half) : maskedCoeff 0x0000#16 w i v = v := by
  rw [maskedCoeff, BitVec.not_zero, BitVec.and_allOnes, BitVec.and_allOnes, BitVec.xor_assoc, BitVec.xor_self,
    BitVec.xor_zero, ite_self]

/-- With the mask all ones nothing of a coefficient is left. -/
theorem maskedCoeff_allOnes (w i : Nat) (v : Half) : maskedCoeff 0xFFFF#16 w i v = replacement w i := by
  simp [maskedCoeff, replacement]

theorem maskedCoeff_weightMask (wt w i : Nat) (v : Half) :
    maskedCoeff (weightMask wt w) w i v = if wt = w then v else replacement w i := by
  unfold weightMask
  split
  · exact maskedCoeff_zero w i v
  · exact maskedCoeff_allOnes w i v

theorem wmaskWord_weightMask (wt w : Nat) :
    wmaskWord (weightMask wt w) = if wt = w then 0x00000000#32 else 0xFFFFFFFF#32 := by
  unfold weightMask
  split <;> rfl

/-! ### The completion of WCHECK (R102, R103) -/

section Completion

variable {d a i : Nat} {pol : WeightPolicy} {p : Params}

theorem readCoeff_commandEffect_wcheck (s : State) (hi : i < p.N) :
    readCoeff (finish (commandEffect (.wcheck d a pol) p s)) d i =
      if weight pol (readCoeff s a) p.L = p.W then readCoeff s a i else replacement p.W i :=
  (readCoeff_writeCoeffs_lane _ _ _ hi).trans (maskedCoeff_weightMask _ _ _ _)

theorem wmask_commandEffect_wcheck (d a : Nat) (pol : WeightPolicy) (p : Params) (s : State) :
    (finish (commandEffect (.wcheck d a pol) p s)).wmask =
      if weight pol (readCoeff s a) p.L = p.W then 0x00000000#32 else 0xFFFFFFFF#32 :=
  wmaskWord_weightMask _ _

/-- WMASK = 0 says that the candidate passed (R38). -/
theorem wmask_commandEffect_wcheck_eq_zero {s : State} :
    (finish (commandEffect (.wcheck d a pol) p s)).wmask = 0x00000000#32 ↔
      weight pol (readCoeff s a) p.L = p.W := by
  rw [wmask_commandEffect_wcheck]
  split <;> simp [*]

/-- The window of an accepted WCHECK lies in the candidate: its check of W and WLEN passed (R113). -/
theorem L_le_N_of_wcheck_accepted {bd : Build} (hc : firstError bd p (checks (.wcheck d a pol)) = none) :
    p.L ≤ p.N := by
  have hlen : p.W ≤ p.N ∧ p.wlen.toNat ≤ p.N := by
    simpa [Check.passes] using firstError_eq_none.mp hc .paramW (by simp [checks])
  unfold Params.L
  split
  · exact le_rfl
  · exact hlen.2

/-- The output has weight W over the window when the candidate passed, and when the W ones of its replacement fit the
window (R103). -/
theorem weight_commandEffect_wcheck {s : State} (hL : p.L ≤ p.N)
    (h : weight pol (readCoeff s a) p.L = p.W ∨ p.W ≤ p.L) :
    weight pol (readCoeff (finish (commandEffect (.wcheck d a pol) p s)) d) p.L = p.W := by
  have hlane (k : Nat) (hk : k < p.L) :=
    readCoeff_commandEffect_wcheck (d := d) (a := a) (pol := pol) s (hk.trans_le hL)
  by_cases hpass : weight pol (readCoeff s a) p.L = p.W
  · simp only [if_pos hpass] at hlane
    rw [weight_congr pol hlane, hpass]
  · simp only [if_neg hpass] at hlane
    rw [weight_congr pol hlane, weight_replacement, min_eq_left (h.resolve_left hpass)]

end Completion

/-- Settles O21: the mask passes every lane or replaces every lane, and the W ones of the replacement are what either
policy counts. -/
theorem wcheckPassesOrReplacesTheCandidate : Obligations.WcheckPassesOrReplacesTheCandidate := by
  intro d a pol s f hf N W L wt
  have hwt : wt = weight pol (readCoeff s a) f.params.L := (weight_eq_length_filter pol _ _).symm
  refine ⟨_, exec_completes (.wcheck d a pol) hf,
    completionFrame_finish_commandEffect s (fun x hx => mem_bankCells.mp hx), fun hW => ?passes, fun hW => ?fails,
    ?_, ?_⟩
  case passes =>
    have hpass : weight pol (readCoeff s a) f.params.L = f.params.W := hwt.symm.trans hW
    exact ⟨wmask_commandEffect_wcheck_eq_zero.mpr hpass,
      fun i hi => (readCoeff_commandEffect_wcheck s hi).trans (if_pos hpass)⟩
  case fails =>
    have hfail : weight pol (readCoeff s a) f.params.L ≠ f.params.W := hwt ▸ hW
    have hlane (i : Nat) (hi : i < N) := (readCoeff_commandEffect_wcheck (d := d) s hi).trans (if_neg hfail)
    refine ⟨(wmask_commandEffect_wcheck d a pol f.params s).trans (if_neg hfail), hlane, fun hfit => ?_⟩
    have hweight (pol' : WeightPolicy) :
        weight pol' (readCoeff (finish (commandEffect (.wcheck d a pol) f.params s)) d) N = W := by
      rw [weight_congr pol' hlane, weight_replacement]
      exact min_eq_left hfit
    exact ⟨by simpa [weight_eq_length_filter] using hweight .nonzero,
      by simpa [weight_eq_length_filter] using hweight .plusOne⟩
  all_goals simp [commandEffect]

/-- Settles O32: the output of the first WCHECK has weight W over the window, so the second one passes it. -/
theorem wcheckIsIdempotent : Obligations.WcheckIsIdempotent := by
  intro d a e pol s f hf hc N L
  refine ⟨_, exec_completes (.wcheck d a pol) hf, fun hmask i hi => ?passes, fun h => ?again⟩
  case passes =>
    exact (readCoeff_commandEffect_wcheck s hi).trans (if_pos (wmask_commandEffect_wcheck_eq_zero.mp hmask))
  case again =>
    have hweight := weight_commandEffect_wcheck (d := d) (L_le_N_of_wcheck_accepted hc)
      (h.imp_left wmask_commandEffect_wcheck_eq_zero.mp)
    exact ⟨_, exec_completes (.wcheck e d pol) rfl, wmask_commandEffect_wcheck_eq_zero.mpr hweight,
      fun i hi => (readCoeff_commandEffect_wcheck _ hi).trans (if_pos hweight)⟩

end Sys2Proof.Machine
end

section
/-! SUPPORT. The codec (R104 to R112): what each command writes as a number or bit by bit, the completions of commands
that write I coefficients or a window of bytes, and the round trips. -/

namespace Sys2Proof.Machine

/-! ### TOP (R105, R106) -/

theorem toInt_topValue (tau0 tau1 c : Int) :
    (topValue tau0 tau1 c).toInt = Int.bmod ((tau1 * (c + tau0) + 16384) >>> (15 : Nat)) 256 := by
  rw [topValue, BitVec.toInt_signExtend_of_le (by decide), BitVec.toInt_ofInt, Int.shiftRight_eq_div_pow]
  rfl

/-- With the constants of R106 the shifted accumulator of an input of the centered domain needs no cut to 8 bits. -/
theorem toInt_topValue_fixture {c : Int} (hlow : -2296 ≤ c) (hhigh : c ≤ 2296) :
    (topValue 2156 114 c).toInt = (114 * (c + 2156) + 16384) / 32768 := by
  rw [toInt_topValue, Int.shiftRight_eq_div_pow]
  exact Int.bmod_eq_of_le (by omega) (by omega)

/-- Settles O33: on the centered domain the value is a floor of a rising function, with 0 and 15 at the ends. -/
theorem topRangeOfTheFixtureConstants : Obligations.TopRangeOfTheFixtureConstants := by
  refine ⟨fun c hlow hhigh => ?range, fun c c' hlow hle hhigh => ?monotone, ⟨-2295, -2294, ?manyToOne⟩⟩
  case range =>
    rw [toInt_topValue_fixture hlow hhigh]
    omega
  case monotone =>
    rw [toInt_topValue_fixture hlow (by omega), toInt_topValue_fixture (by omega) hhigh]
    omega
  case manyToOne => decide

/-! ### Nibbles (R107, R108) -/

/-- The byte R107 packs, as a number. -/
theorem toNat_topencByte (A : Nat → Half) (i j : Nat) :
    (topencByte A i j).toNat =
      ((A (2 * j)).toNat % 256 ||| (if 2 * j + 1 < i then (A (2 * j + 1)).toNat % 256 else 0) <<< 4) &&& 0xFF := by
  have hlo (v : Half) : (lo8 v).toNat = v.toNat % 256 := BitVec.extractLsb'_toNat 0 8 v
  have hbyte (t0 t1 : Byte) : (t0 ||| t1 <<< 4).toNat = (t0.toNat ||| t1.toNat <<< 4) &&& 0xFF := by
    rw [Nat.and_two_pow_sub_one_eq_mod _ 8, Nat.or_mod_two_pow, BitVec.toNat_or, BitVec.toNat_shiftLeft,
      Nat.mod_eq_of_lt t0.isLt]
  rw [topencByte, hbyte, hlo, apply_ite BitVec.toNat, hlo]
  rfl

/-- The nibble R108 takes, as a number. -/
theorem toNat_topdecValue (buf : Nat → Byte) (i : Nat) :
    (topdecValue buf i).toNat = if i % 2 = 0 then (buf (i / 2)).toNat % 16 else (buf (i / 2)).toNat / 16 := by
  have hnibble (b : Byte) (start : Nat) : ((b.extractLsb' start 4).setWidth 16).toNat = b.toNat >>> start % 16 := by
    rw [BitVec.toNat_setWidth_of_le (by decide), BitVec.extractLsb'_toNat]
  unfold topdecValue
  split
  case isTrue => rw [hnibble, Nat.shiftRight_zero]
  case isFalse => rw [hnibble, Nat.shiftRight_eq_div_pow, Nat.mod_eq_of_lt (by omega)]

theorem toNat_topdecValue_lt (buf : Nat → Byte) (i : Nat) : (topdecValue buf i).toNat < 16 := by
  have hbyte := (buf (i / 2)).isLt
  rw [toNat_topdecValue]
  split <;> omega

/-- The low nibble of a packed byte is t0's own. -/
theorem pack_mod_sixteen (t0 t1 : Nat) : ((t0 ||| t1 <<< 4) &&& 0xFF) % 16 = t0 &&& 0xF := by
  rw [Nat.and_two_pow_sub_one_eq_mod _ 8, Nat.and_two_pow_sub_one_eq_mod _ 4, Nat.mod_mod_of_dvd _ (by decide),
    Nat.or_mod_two_pow (n := 4), Nat.shiftLeft_eq, Nat.mul_mod_left, Nat.or_zero]

/-- The high nibble of a packed byte is t1 with the high bits of t0 in it (R107). -/
theorem pack_div_sixteen (t0 t1 : Nat) : ((t0 ||| t1 <<< 4) &&& 0xFF) / 16 = (t0 >>> 4 ||| t1) &&& 0xF := by
  rw [← Nat.shiftRight_eq_div_pow _ 4, Nat.shiftRight_and_distrib, Nat.shiftRight_or_distrib, Nat.shiftLeft_shiftRight]
  rfl

/-- A byte is its two nibbles, packed. -/
theorem pack_nibbles (b : Byte) : (b.toNat % 16 ||| (b.toNat / 16) <<< 4) &&& 0xFF = b.toNat := by
  rw [Nat.or_comm, ← Nat.shiftLeft_add_eq_or_of_lt (i := 4) (by omega), Nat.shiftLeft_eq,
    Nat.and_two_pow_sub_one_eq_mod _ 8]
  omega

section NibbleTrips

variable {A : Nat → Half} {buf : Nat → Byte} {n : Nat}

/-- What R109 says comes back of any coefficients. -/
theorem toNat_topdecValue_topencByte {i : Nat} (hi : i < n) :
    (topdecValue (topencByte A n) i).toNat =
      if i % 2 = 0 then ((A i).toNat % 256) &&& 0xF
      else (((A (i - 1)).toNat % 256) >>> 4 ||| (A i).toNat % 256) &&& 0xF := by
  rw [toNat_topdecValue, toNat_topencByte]
  split
  case isTrue heven => rw [pack_mod_sixteen, show 2 * (i / 2) = i by omega]
  case isFalse hodd =>
    rw [show 2 * (i / 2) + 1 = i by omega, show 2 * (i / 2) = i - 1 by omega, if_pos hi, pack_div_sixteen]

/-- The nibbles come back exactly when they are nibbles: what is decoded is one, and a nibble has no high bits to leave
in its neighbour. -/
theorem topdecValue_topencByte_eq_self_iff :
    (∀ i, i < n → topdecValue (topencByte A n) i = A i) ↔ ∀ i, i < n → (A i).toNat < 16 := by
  refine ⟨fun h i hi => h i hi ▸ toNat_topdecValue_lt _ _, fun h i hi => BitVec.eq_of_toNat_eq ?_⟩
  have hnibble := h i hi
  rw [toNat_topdecValue_topencByte hi, Nat.and_two_pow_sub_one_eq_mod _ 4, Nat.and_two_pow_sub_one_eq_mod _ 4]
  split
  case isTrue => omega
  case isFalse =>
    have hbefore := h (i - 1) (by omega)
    rw [Nat.shiftRight_eq_div_pow, show (A (i - 1)).toNat % 256 / 2 ^ 4 = 0 by omega, Nat.zero_or]
    omega

/-- What R109 says is written back of any window. -/
theorem toNat_topencByte_topdecValue {j : Nat} (hj : j < windowBytes 2 n) :
    (topencByte (topdecValue buf) n j).toNat =
      if n % 2 = 1 ∧ j + 1 = (n + 1) / 2 then (buf j).toNat % 16 else (buf j).toNat := by
  have hwindow : j < (n + 1) / 2 := hj
  have hbyte := (buf j).isLt
  rw [toNat_topencByte, toNat_topdecValue, toNat_topdecValue, if_pos (show 2 * j % 2 = 0 by omega),
    if_neg (show (2 * j + 1) % 2 ≠ 0 by omega),
    show 2 * j / 2 = j by omega, show (2 * j + 1) / 2 = j by omega, Nat.mod_eq_of_lt (a := _ % 16) (by omega),
    Nat.mod_eq_of_lt (a := _ / 16) (by omega)]
  by_cases hlast : 2 * j + 1 < n
  · rw [if_pos hlast, if_neg (by omega), pack_nibbles]
  · rw [if_neg hlast, if_pos (by omega), Nat.zero_shiftLeft, Nat.or_zero, Nat.and_two_pow_sub_one_eq_mod _ 8]
    omega

end NibbleTrips

/-! ### Bits (R110, R111) -/

section Bits

variable {A : Nat → Half} {i j k : Nat}

/-- The one bit that step n of R110's loop can set. -/
theorem getLsbD_bit_shiftLeft (b : Bool) (n : Nat) (hk : k < 8) :
    ((BitVec.ofBool b).setWidth 8 <<< n).getLsbD k = (decide (k = n) && b) := by
  rcases Nat.lt_trichotomy k n with hlt | rfl | hgt
  · simp [hlt, hlt.ne]
  · simp [hk]
  · simp [hgt.ne', show k - n ≠ 0 by omega]

/-- The bits OR-ed in so far: the loop of R110 has set bit k once k < n. -/
theorem getLsbD_inencBits (n : Nat) (hk : k < 8) :
    (inencBits A i j n).getLsbD k = (decide (k < n ∧ 8 * j + k < i) && (A (8 * j + k)).getLsbD 0) := by
  induction n with
  | zero => rw [inencBits, BitVec.getLsbD_zero, decide_eq_false (by omega), Bool.false_and]
  | succ n ih =>
    rw [inencBits, BitVec.getLsbD_or, ih, apply_ite (BitVec.getLsbD · k), getLsbD_bit_shiftLeft _ _ hk]
    by_cases hstep : k = n
    · subst hstep
      simp
    · simp [hstep, show k < n + 1 ↔ k < n by omega]

theorem getLsbD_inencByte (hk : k < 8) :
    (inencByte A i j).getLsbD k = if 8 * j + k < i then (A (8 * j + k)).getLsbD 0 else false := by
  rw [inencByte, getLsbD_inencBits 8 hk]
  simp [hk]

/-- The bit R111 takes, as a number. -/
theorem toNat_indecValue (buf : Nat → Byte) (i : Nat) :
    (indecValue buf i).toNat = ((buf (i / 8)).toNat >>> (i % 8)) % 2 := by
  rw [Nat.shiftRight_eq_div_pow, ← Nat.toNat_testBit, indecValue, BitVec.getLsbD, BitVec.toNat_setWidth,
    BitVec.toNat_ofBool, Nat.mod_eq_of_lt ((Bool.toNat_lt _).trans (by decide))]

/-- What R112 says comes back: bit 0 of the coefficient. -/
theorem indecValue_inencByte {n : Nat} (hi : i < n) : indecValue (inencByte A n) i = A i &&& 1#16 := by
  rw [indecValue, getLsbD_inencByte (Nat.mod_lt _ (by decide)), Nat.div_add_mod, if_pos hi,
    BitVec.and_one_eq_setWidth_ofBool_getLsbD]

end Bits

/-! ### Completions (R76) -/

section Completion

variable {i : Instr} {s : State} {f : InFlight}

/-- The completion of a command whose effect is to write I coefficients of bank d. -/
theorem exists_writeCoeffs_completion {d : Nat} {v : Nat → Half} (hf : s.inflight = some f)
    (heffect : commandEffect i f.params s = writeCoeffs d v f.params.I s)
    (hcells : destCells i f.params.public = bankCells d f.params.I) :
    ∃ t, exec i s = .next t ∧ CompletionFrame s t (LaneCell d f.params.I) ∧
      (∀ k, k < f.params.I → readCoeff t d k = v k) ∧ t.fout = s.fout ∧ t.wmask = s.wmask ∧ t.ovf = s.ovf := by
  refine ⟨_, exec_completes i hf, completionFrame_finish_commandEffect s ?cells, fun k hk => ?lane, ?_, ?_, ?_⟩
  case cells => exact hcells ▸ fun x hx => mem_bankCells.mp hx
  case lane =>
    rw [heffect]
    exact readCoeff_writeCoeffs_lane _ _ _ hk
  all_goals simp [heffect]

/-- The completion of a command whose effect is to write the window at BOFF, `per` elements in a byte. -/
theorem exists_writeBufs_completion {per : Nat} {v : Nat → Byte} (hf : s.inflight = some f)
    (heffect : commandEffect i f.params s = writeBufs f.params.off v (windowBytes per f.params.I) s)
    (hcells : destCells i f.params.public = windowCells f.params.off (windowBytes per f.params.I)) :
    ∃ t, exec i s = .next t ∧
      CompletionFrame s t (WindowCell f.params.off (windowBytes per f.params.I)) ∧
      (∀ j, j < windowBytes per f.params.I → readBuf t (f.params.off + j) = v j) ∧
      t.fout = s.fout ∧ t.wmask = s.wmask ∧ t.ovf = s.ovf := by
  refine ⟨_, exec_completes i hf, completionFrame_finish_commandEffect s ?cells, fun j hj => ?byte, ?_, ?_, ?_⟩
  case cells => exact hcells ▸ fun x hx => mem_windowCells.mp hx
  case byte =>
    rw [heffect]
    exact readBuf_writeBufs_byte _ _ _ hj
  all_goals simp [heffect]

end Completion

/-- Settles O22: each lane of TOP is its value, read as an integer. -/
theorem topRoundsEveryElement : Obligations.TopRoundsEveryElement := by
  intro d a s f hf
  obtain ⟨t, hexec, hframe, hlane, hresults⟩ := exists_writeCoeffs_completion (i := .top d a) hf rfl rfl
  refine ⟨t, hexec, hframe, fun i hi => ?_, hresults⟩
  rw [coeff, hlane i hi]
  exact toInt_topValue _ _ _

/-- Settles O23: each byte of the window is a packed pair. -/
theorem topencPacksNibblePairs : Obligations.TopencPacksNibblePairs := by
  intro a s f hf I off
  obtain ⟨t, hexec, hframe, hbyte, hresults⟩ :=
    exists_writeBufs_completion (i := .topenc a) (per := 2) hf rfl rfl
  refine ⟨t, hexec, hframe, fun j hj => ?_, hresults⟩
  exact (congrArg BitVec.toNat (hbyte j hj)).trans (toNat_topencByte _ _ _)

/-- Settles O24: each lane of TOPDEC is a nibble of its byte. -/
theorem topdecUnpacksNibblePairs : Obligations.TopdecUnpacksNibblePairs := by
  intro d s f hf
  obtain ⟨t, hexec, hframe, hlane, hresults⟩ := exists_writeCoeffs_completion (i := .topdec d) hf rfl rfl
  refine ⟨t, hexec, hframe, fun i hi => ?_, hresults⟩
  exact (congrArg BitVec.toNat (hlane i hi)).trans (toNat_topdecValue _ _)

/-- Settles O25: each bit of the window is bit 0 of its coefficient, or 0 from I on. -/
theorem inencPacksOneBitPerCoefficient : Obligations.InencPacksOneBitPerCoefficient := by
  intro a s f hf I off
  obtain ⟨t, hexec, hframe, hbyte, hresults⟩ :=
    exists_writeBufs_completion (i := .inenc a) (per := 8) hf rfl rfl
  refine ⟨t, hexec, hframe, fun j k hj hk => ?_, hresults⟩
  exact (congrArg (BitVec.getLsbD · k) (hbyte j hj)).trans (getLsbD_inencByte hk)

/-- Settles O26: each lane of INDEC is its bit of the window. -/
theorem indecUnpacksOneBitPerCoefficient : Obligations.IndecUnpacksOneBitPerCoefficient := by
  intro d s f hf
  obtain ⟨t, hexec, hframe, hlane, hresults⟩ := exists_writeCoeffs_completion (i := .indec d) hf rfl rfl
  refine ⟨t, hexec, hframe, fun i hi => ?_, hresults⟩
  exact (congrArg BitVec.toNat (hlane i hi)).trans (toNat_indecValue _ _)

/-! ### Round trips (R109, R112) -/

/-- A coefficient is in 0 .. 15 exactly when its 16 bits are. -/
theorem coeff_nibble_iff {s : State} {a i : Nat} :
    (0 ≤ coeff s a i ∧ coeff s a i ≤ 15) ↔ (readCoeff s a i).toNat < 16 := by
  rw [coeff, BitVec.toInt_eq_toNat_cond]
  have hwidth := (readCoeff s a i).isLt
  split <;> omega

/-- Settles O34: in each trip the second command reads the values that the first one left, so the result is one packing
function applied to the other's values. -/
theorem nibbleRoundTrip : Obligations.NibbleRoundTrip := by
  intro d a s f g hf hI hoff I off
  have hI : g.params.I = f.params.I := congrArg BitVec.toNat hI
  have hoff : g.params.off = f.params.off := congrArg BitVec.toNat hoff
  refine ⟨?encode, ?decode⟩
  case encode =>
    obtain ⟨t, hexec, -, hbyte, -⟩ := exists_writeBufs_completion (i := .topenc a) (per := 2) hf rfl rfl
    obtain ⟨u, hexec', -, hlane, -⟩ := exists_writeCoeffs_completion
      (i := .topdec d) (s := { t with inflight := some g }) rfl rfl rfl
    rw [hI, hoff] at hlane
    have htrip (i : Nat) (hi : i < I) : readCoeff u d i = topdecValue (topencByte (readCoeff s a) I) i :=
      (hlane i hi).trans (topdecValue_congr hbyte hi)
    refine ⟨t, u, hexec, hexec', ?exact, fun i hi => htrip i hi ▸ toNat_topdecValue_topencByte hi⟩
    case exact =>
      simp only [coeff_nibble_iff, ← topdecValue_topencByte_eq_self_iff]
      exact forall₂_congr fun i hi => by rw [htrip i hi]
  case decode =>
    obtain ⟨t, hexec, -, hlane, -⟩ := exists_writeCoeffs_completion (i := .topdec d) hf rfl rfl
    obtain ⟨u, hexec', -, hbyte, -⟩ := exists_writeBufs_completion
      (i := .topenc d) (s := { t with inflight := some g }) (per := 2) rfl rfl rfl
    rw [hI, hoff] at hbyte
    refine ⟨t, u, hexec, hexec', fun j hj => ?_⟩
    have htrip := (hbyte j hj).trans (topencByte_congr hlane hj)
    exact (congrArg BitVec.toNat htrip).trans (toNat_topencByte_topdecValue hj)

/-- Settles O35: each bit that INDEC takes is the bit that INENC put there. -/
theorem bitRoundTrip : Obligations.BitRoundTrip := by
  intro d a s f g hf hI hoff
  have hI : g.params.I = f.params.I := congrArg BitVec.toNat hI
  have hoff : g.params.off = f.params.off := congrArg BitVec.toNat hoff
  obtain ⟨t, hexec, -, hbyte, -⟩ := exists_writeBufs_completion (i := .inenc a) (per := 8) hf rfl rfl
  obtain ⟨u, hexec', -, hlane, -⟩ := exists_writeCoeffs_completion
    (i := .indec d) (s := { t with inflight := some g }) rfl rfl rfl
  rw [hI, hoff] at hlane
  have htrip (i : Nat) (hi : i < f.params.I) : readCoeff u d i = readCoeff s a i &&& 1#16 :=
    (hlane i hi).trans ((indecValue_congr hbyte hi).trans (indecValue_inencByte hi))
  refine ⟨t, u, hexec, hexec', htrip, fun hbits i hi => (htrip i hi).trans ?_⟩
  rcases hbits i hi with hzero | hone
  · rw [show readCoeff s a i = 0#16 from BitVec.eq_of_toInt_eq hzero]
    rfl
  · rw [show readCoeff s a i = 1#16 from BitVec.eq_of_toInt_eq hone]
    rfl

end Sys2Proof.Machine
end

section
/-! SUPPORT. The exceptions (R113 to R120): the one error that a START reports and what it depends on, what clears ERR,
an error beside a completion, and the IRQ output. -/

namespace Sys2Proof.Machine

/-! ### What a START reports (R114 to R116) -/

section Start

variable {s t : State} {i : Instr} {code : ErrCode}

/-- The error that a START reports: of the word in CMD, or else of the first check that fails (R115). -/
def startError (s : State) : Option ErrCode :=
  match decode s.cmd with
  | .ok i => firstError s.build s.params (checks i)
  | .bad .illegalOp => some .illegalOp
  | .bad .reserved => some .reserved

/-- The state a START leaves: the rejection with its error, or the acceptance. -/
def startResult (error : Option ErrCode) (s : State) : State :=
  match error with
  | some code => reject code s
  | none => accept s

theorem startError_decodes (hd : decode s.cmd = .ok i) : startError s = firstError s.build s.params (checks i) := by
  simp only [startError, hd]

theorem startError_illegalOp (hd : decode s.cmd = .bad .illegalOp) : startError s = some .illegalOp := by
  simp only [startError, hd]

theorem startError_reserved (hd : decode s.cmd = .bad .reserved) : startError s = some .reserved := by
  simp only [startError, hd]

theorem startCommand_decodes (hd : decode s.cmd = .ok i) : startCommand s = exec i s := by
  simp only [startCommand, hd]

theorem startCommand_illegalOp (hd : decode s.cmd = .bad .illegalOp) :
    startCommand s = .next (reject .illegalOp s) := by
  simp only [startCommand, hd]

theorem startCommand_reserved (hd : decode s.cmd = .bad .reserved) : startCommand s = .next (reject .reserved s) := by
  simp only [startCommand, hd]

theorem exec_eq_startResult (hf : s.inflight = none) (i : Instr) :
    exec i s = .next (startResult (firstError s.build s.params (checks i)) s) := by
  cases hc : firstError s.build s.params (checks i) with
  | some code => exact exec_rejects hf hc
  | none => exact exec_accepts hf hc

theorem startCommand_eq_startResult (hf : s.inflight = none) :
    startCommand s = .next (startResult (startError s) s) := by
  cases hd : decode s.cmd with
  | ok i => rw [startCommand_decodes hd, startError_decodes hd, exec_eq_startResult hf]
  | bad why =>
    cases why with
    | illegalOp => rw [startCommand_illegalOp hd, startError_illegalOp hd]; rfl
    | reserved => rw [startCommand_reserved hd, startError_reserved hd]; rfl

/-- A START that leaves no command in flight is a rejection with its error, which is a command's and not 0x09 (R116). -/
theorem startCommand_rejects (hf : s.inflight = none) (h : startCommand s = .next t) (ht : t.inflight = none) :
    ∃ code, startError s = some code ∧ code ≠ .none ∧ code ≠ .busy ∧ t = reject code s := by
  have hresult : startResult (startError s) s = t :=
    Host.Outcome.next.inj ((startCommand_eq_startResult hf).symm.trans h)
  rcases startCommand_cases hf h with ⟨code, hnone, hbusy, rfl⟩ | ⟨i, -, -, rfl⟩
  · cases he : startError s with
    | some reported =>
      rw [he] at hresult
      have hcode : reported = code := congrArg State.errcode hresult
      exact ⟨code, congrArg some hcode, hnone, hbusy, rfl⟩
    | none =>
      rw [he] at hresult
      cases (congrArg State.inflight hresult).trans hf
  · cases ht

/-- Settles O9: a rejection is `reject`, and its code is the error of the START. -/
theorem rejectionIsPrecise : Obligations.RejectionIsPrecise := by
  intro s t hf h ht
  obtain ⟨code, he, hnone, hbusy, rfl⟩ := startCommand_rejects hf h ht
  exact ⟨hnone, hbusy, rfl, fun hd => Option.some.inj (he.symm.trans (startError_illegalOp hd)),
    fun hd => Option.some.inj (he.symm.trans (startError_reserved hd)),
    fun i hd => (startError_decodes hd).symm.trans he⟩

end Start

/-! ### When each check fails (R113, R114) -/

section Checks

variable {bd : Build} {p : Params}

theorem bank_fails_iff {x : Nat} : (Check.bank x).passes bd p = false ↔ bd.nbank ≤ x := by
  rw [Check.passes, decide_eq_false_iff_not, Nat.not_lt]

theorem paramN_fails_iff : Check.paramN.passes bd p = false ↔ p.pn.toNat = 0 ∨ bd.nmax < p.pn.toNat := by
  rw [Check.passes, Bool.and_eq_false_iff, decide_eq_false_iff_not, decide_eq_false_iff_not, Nat.not_le, Nat.not_le,
    Nat.lt_one_iff]
  rfl

theorem paramM_fails_iff : Check.paramM.passes bd p = false ↔ p.pm.toNat = 0 := by
  rw [Check.passes, bne_eq_false_iff_eq]
  rfl

theorem paramI_fails_iff : Check.paramI.passes bd p = false ↔ p.pn.toNat < p.pi.toNat := by
  rw [Check.passes, decide_eq_false_iff_not, Nat.not_le]
  rfl

theorem paramW_fails_iff :
    Check.paramW.passes bd p = false ↔ p.pn.toNat < p.pw.toNat ∨ p.pn.toNat < p.wlen.toNat := by
  rw [Check.passes, Bool.and_eq_false_iff, decide_eq_false_iff_not, decide_eq_false_iff_not, Nat.not_le, Nat.not_le]
  rfl

theorem window_fails_iff {per : Nat} :
    (Check.window per).passes bd p = false ↔ bd.bufsz < p.boff.toNat + (p.pi.toNat + (per - 1)) / per := by
  rw [Check.passes, decide_eq_false_iff_not, Nat.not_le]
  rfl

/-- A START makes the first check of a row, then the others (R115). -/
theorem startResult_cons (c : Check) (l : List Check) (s : State) :
    startResult (firstError bd p (c :: l)) s =
      if c.passes bd p = false then reject c.code s else startResult (firstError bd p l) s := by
  cases hc : c.passes bd p <;> simp [firstError, hc, startResult]

theorem startResult_nil (s : State) : startResult (firstError bd p []) s = accept s := rfl

/-- M is checked when R = 1 (R114). -/
theorem startResult_reduce (r : Bool) (s : State) :
    startResult (firstError bd p (if r then [.paramM] else [])) s =
      if r = true ∧ p.pm.toNat = 0 then reject .paramM s else accept s := by
  cases r with
  | false => rfl
  | true => simp only [if_true, startResult_cons, startResult_nil, paramM_fails_iff, Check.code, true_and]

/-- Settles O8: each row of R114 is the chain of its checks; a disjunction of conditions with one code is a chain too. -/
theorem commandsAreCheckedAtStartInOrder : Obligations.CommandsAreCheckedAtStartInOrder := by
  intro s hf
  refine ⟨startCommand_illegalOp, startCommand_reserved, fun _ => startCommand_decodes, exec_eq_startResult hf .nop,
    ?sfreeze, ?freeze, ?add, ?sub, ?smul, ?mul, ?wcheck, ?top, ?topenc, ?topdec, ?inenc, ?indec, by decide⟩
  all_goals
    simp only [exec_eq_startResult hf, checks, List.cons_append, List.nil_append, startResult_cons, startResult_nil,
      startResult_reduce, Check.code, bank_fails_iff, paramN_fails_iff, paramM_fails_iff, paramI_fails_iff,
      paramW_fails_iff, window_fails_iff, ite_or, implies_true]

end Checks

/-! ### What the error of a START depends on (R113) -/

/-- A check reads no register but PN, PM, PW, PI, BOFF and WLEN. -/
theorem Check.passes_congr {bd : Build} {p q : Params} (hpn : q.pn = p.pn) (hpm : q.pm = p.pm) (hpw : q.pw = p.pw)
    (hpi : q.pi = p.pi) (hboff : q.boff = p.boff) (hwlen : q.wlen = p.wlen) (c : Check) :
    c.passes bd q = c.passes bd p := by
  have hN : q.N = p.N := congrArg BitVec.toNat hpn
  have hM : q.M = p.M := congrArg BitVec.toNat hpm
  have hW : q.W = p.W := congrArg BitVec.toNat hpw
  have hI : q.I = p.I := congrArg BitVec.toNat hpi
  have hoff : q.off = p.off := congrArg BitVec.toNat hboff
  cases c <;> simp only [passes, hN, hM, hW, hI, hoff, hwlen]

theorem firstError_congr {bd : Build} {p q : Params} (h : ∀ c : Check, c.passes bd q = c.passes bd p) (l : List Check) :
    firstError bd q l = firstError bd p l := by
  induction l with
  | nil => rfl
  | cons c l ih => rw [firstError, firstError, h, ih]

/-- Settles O58: the two STARTs have one error, since they decode one word and make checks of equal registers. -/
theorem errorsDoNotDependOnSecretValues : Obligations.ErrorsDoNotDependOnSecretValues := by
  intro s s' hf hf' hbuild hcmd hpn hpm hpw hpi hboff hwlen
  have hsame : startError s' = startError s := by
    simp only [startError, hcmd, hbuild, firstError_congr (Check.passes_congr hpn hpm hpw hpi hboff hwlen)]
  refine ⟨_, _, startCommand_eq_startResult hf, startCommand_eq_startResult hf', ?_⟩
  rw [hsame]
  cases startError s with
  | some code => exact ⟨iff_of_true hf hf', fun _ => rfl⟩
  | none => exact ⟨iff_of_false nofun nofun, nofun⟩

/-! ### What clears ERR (R117) -/

section ClearsErr

variable {s t : State}

theorem readTarget_err (tg : Target) (s : State) : (readTarget tg s).err = s.err := by
  obtain ⟨w, k, hread⟩ := readTarget_frame tg s
  rw [hread]

theorem storeReg_err (r : Reg) (v : Word) (s : State) : (storeReg r v s).err = s.err := by cases r <;> rfl

theorem writeBufWord_err (k : Nat) (v : Word) (s : State) : (writeBufWord k v s).err = s.err := writeBufs_err _ _ _ s

theorem complete_err (h : complete s = .next t) : t.err = s.err := by
  rcases complete_cases h with ⟨-, rfl⟩ | ⟨f, i, -, -, rfl⟩
  · rfl
  · exact commandEffect_err i f.params s

/-- A host write keeps ERR but for a soft reset and the acknowledgement (R117, R130). -/
theorem writeTarget_keeps_err {tg : Target} {v : Word} (h : writeTarget tg v s = .next t) (herr : s.err = true) :
    t.err = true ∨ (tg = .register .ctrl ∧ v.getLsbD 1 = true) ∨ (tg = .register .status ∧ v.getLsbD 2 = true) := by
  rcases writeTarget_cases h with ⟨htg, hsrst, -⟩ | ⟨-, -, -, hf, hstart⟩ | ⟨-, -, -, rfl⟩ | ⟨-, -, -, -, rfl⟩ |
    ⟨htg, rfl⟩ | ⟨r, -, -, -, rfl⟩ | ⟨b, i, -, -, rfl⟩ | ⟨k, -, -, rfl⟩ | ⟨-, rfl⟩ | rfl
  · exact .inr (.inl ⟨htg, hsrst⟩)
  · rcases startCommand_cases (s := { s with ie := v.getLsbD 2 }) hf hstart with ⟨code, -, -, rfl⟩ | ⟨i, -, -, rfl⟩
    · exact .inl rfl
    · exact .inl herr
  · exact .inl herr
  · exact .inl rfl
  · cases hack : v.getLsbD 2 with
    | true => exact .inr (.inr ⟨htg, rfl⟩)
    | false => exact .inl (by simp only [writeStatus_eq, hack, herr, Bool.false_eq_true, if_false])
  · exact .inl ((storeReg_err r v s).trans herr)
  · exact .inl herr
  · exact .inl ((writeBufWord_err k v s).trans herr)
  · exact .inl rfl
  · exact .inl herr

/-- A step keeps ERR but for the acknowledgement, a soft reset and a hardware reset (R117, R129, R130). -/
theorem step_keeps_err (h : step s = .next t) (herr : s.err = true) :
    t.err = true ∨ (∃ v rest, HostWriteIsNext s 0x014 v rest ∧ v.getLsbD 2 = true) ∨
      (∃ v rest, HostWriteIsNext s 0x010 v rest ∧ v.getLsbD 1 = true) ∨ ∃ rest, s.agenda = .hardReset :: rest := by
  rcases step_cases h with ⟨rest, -, hc⟩ | ⟨off, rest, -, -, -, rfl⟩ | ⟨off, v, rest, hnext, -, -, hw⟩ |
    ⟨k, rest, -, -, rfl⟩ | ⟨k, rest, -, -, rfl⟩ | ⟨rest, hnext, -⟩
  · exact .inl ((complete_err hc).trans herr)
  · exact .inl ((readTarget_err _ _).trans herr)
  · rcases writeTarget_keeps_err hw herr with hkept | ⟨htg, hsrst⟩ | ⟨htg, hack⟩
    · exact .inl hkept
    · obtain rfl : off = 0x010 := target_eq_register htg
      exact .inr (.inr (.inl ⟨v, rest, hnext, hsrst⟩))
    · obtain rfl : off = 0x014 := target_eq_register htg
      exact .inr (.inl ⟨v, rest, hnext, hack⟩)
  · exact .inl herr
  · exact .inl herr
  · exact .inr (.inr (.inr ⟨rest, hnext⟩))

end ClearsErr

/-- Settles O41: the write of STATUS field by field, what a step keeps of ERR, and the two errors over an old one. -/
theorem errorAcknowledgeAndOverwrite : Obligations.ErrorAcknowledgeAndOverwrite := by
  refine ⟨fun s v rest hnext hack => ?_, fun s t hstep herr hclear => ?_, fun s i code herr hf hc => ?_,
    fun s f v rest herr hf hnext => ?_⟩
  · refine ⟨_, (statusReadsAndClearsItsFlags s v rest).2 hnext, if_pos hack, ?_⟩
    simp only [readReg, hack, if_true]
    rfl
  · rcases step_keeps_err hstep herr with hkept | hcleared
    · cases hkept.symm.trans hclear
    · exact hcleared
  · rw [exec_rejects hf hc, reject, herr]
  · rw [step_writeReg_locked_inFlight (r := .pn) rfl hf hnext, busyError, herr]

/-! ### A BUSY error and a completion (R119) -/

/-- Settles O60: the write of PN is a BUSY error and nothing else, and the completion keeps the error. -/
theorem busyErrorAndCompletionBothTakeEffect : Obligations.BusyErrorAndCompletionBothTakeEffect := by
  intro s f i v rest hf hd hnext
  have hbusy : step s = .next (busyError { s with agenda := .completion :: rest }) :=
    step_writeReg_locked_inFlight (r := .pn) rfl hf hnext
  have hcomplete := completionRunsTheCommandInFlight
    (busyError { s with agenda := .completion :: rest }) rest f i (.inl rfl) hf hd
  have hexec := exec_completes i (s := { s with agenda := rest, err := true, errcode := .busy }) hf
  exact ⟨_, (run_two hbusy).trans (hcomplete.trans hexec), commandEffect_params i f.params _, rfl, rfl,
    commandEffect_err i f.params _, commandEffect_errcode i f.params _, hexec⟩

/-! ### The interrupt output (R120) -/

theorem irq_of_done {s : State} (h : s.done = true) : s.irq = s.ie := by rw [State.irq, h, Bool.and_true]

/-- Settles O49: a completion and a rejection set DONE and keep IE; the writes of STATUS and CTRL, field by field. -/
theorem interruptOutput : Obligations.InterruptOutput := by
  refine ⟨fun s => Bool.and_eq_true_iff, fun i s f hf => ?completion, fun s t hf h ht => ?rejection,
    fun s v rest hnext hclear => ?clear, fun s v rest hnext hstart hsrst => ?enable⟩
  case completion =>
    exact ⟨_, exec_completes i hf, rfl, (irq_of_done rfl).trans (commandEffect_ie i f.params s)⟩
  case rejection =>
    obtain ⟨code, -, -, -, rfl⟩ := startCommand_rejects hf h ht
    exact ⟨rfl, irq_of_done rfl⟩
  case clear =>
    refine ⟨_, (statusReadsAndClearsItsFlags s v rest).2 hnext, ?_⟩
    simp only [State.irq, hclear, if_true, Bool.and_false]
  case enable =>
    obtain ⟨-, -, hie, -⟩ := controlRegister s v rest
    exact ⟨_, hie hnext hsrst hstart, rfl, rfl⟩

end Sys2Proof.Machine
end

section
/-! SUPPORT. The soft reset (R130): what it keeps, and which cells an abort can change. -/

namespace Sys2Proof.Machine

@[simp] theorem abort_build (s : State) : (abort s).build = s.build := by
  rcases Option.eq_none_or_eq_some s.inflight with hf | ⟨f, hf⟩
  · rw [abort_idle hf]
  · rw [abort_inFlight hf, scramble_build]

@[simp] theorem abort_agenda (s : State) : (abort s).agenda = s.agenda := by
  rcases Option.eq_none_or_eq_some s.inflight with hf | ⟨f, hf⟩
  · rw [abort_idle hf]
  · rw [abort_inFlight hf, scramble_agenda]

theorem readByte_softReset_idle {s : State} (hf : s.inflight = none) (x : Nat) :
    readByte (softReset s) x = readByte s x := by
  rcases readByte_softReset_cases s x with hx | ⟨f, hf', -⟩
  · exact hx
  · cases hf.symm.trans hf'

/-- An abort changes only lanes of the command's D and bytes of the window it writes (R80, R104, R130). -/
theorem readByte_softReset_inFlight {s : State} {f : InFlight} {i : Instr} {x : Nat} (hf : s.inflight = some f)
    (hd : decode f.word = .ok i)
    (hlane : ∀ d, destBank i = some d → ¬ LaneCell d (elementCount i f.params.public) x)
    (hwindow : ∀ per, destWindow i = some per →
      ¬ WindowCell f.params.off (windowBytes per (elementCount i f.params.public)) x) :
    readByte (softReset s) x = readByte s x := by
  rcases readByte_softReset_cases s x with hx | ⟨f', hf', hmem⟩
  · exact hx
  · cases hf.symm.trans hf'
    obtain ⟨c, hc, hcell⟩ := mem_inFlightCells.mp hmem
    cases hd.symm.trans hc
    rcases destCells_cases hcell with ⟨d, k, hdest, hk, hxk⟩ | ⟨per, j, hwin, hj, hxj⟩
    · exact absurd ⟨k, hk, hxk⟩ (hlane d hdest)
    · exact absurd ⟨j, hj, hxj⟩ (hwindow per hwin)

/-- Settles O51: the write is a soft reset of the state that has taken the event. The registers are reset, and a cell
that changed would be a destination cell of the command aborted. -/
theorem softReset_spec : Obligations.SoftReset := by
  intro s v rest hnext hsrst
  obtain ⟨hstep, -⟩ := controlRegister s v rest
  refine ⟨_, hstep hnext hsrst, rfl, rfl, rfl, rfl, rfl, rfl, rfl, rfl, rfl, rfl,
    abort_build _, abort_agenda _, fun hf x => ?idle, fun f i hf hd x hlane hwindow => ?inFlight⟩
  case idle => exact readByte_softReset_idle (s := { s with agenda := rest }) hf x
  case inFlight => exact readByte_softReset_inFlight (s := { s with agenda := rest }) hf hd hlane hwindow

end Sys2Proof.Machine
end

section
/-! SUPPORT. The command words written out in the spec's programs (R71): each is its command's encoding. -/

namespace Sys2Proof

theorem decode_of_encode_eq {w : Word} {i : Instr} (hi : i.wellFormed = true) (hw : encode i = w) :
    decode w = .ok i :=
  hw ▸ decode_encode hi

/-- Settles O1: twelve of the words are encodings, 0x8000000D has an opcode above 0x0C, and 0x00410203 has the
opcode of ADD and a reserved bit set. -/
theorem sampleCommandWordsDecode : Obligations.SampleCommandWordsDecode := by
  refine ⟨?_, ?_, ?_, ?_, ?_, ?_, ?_, ?_, ?_, ?_, ?_, ?_, ?illegal, ?reserved⟩
  case illegal => exact decode_illegalOp (by decide)
  case reserved => exact decode_reserved (by decide) (by decide)
  all_goals exact decode_of_encode_eq (by decide) (by decide)

end Sys2Proof
end
